-- ==== Sys2Proof/Word.lean ====
section
/-! DEFINITION. The word types of the DES core (spec/00_scope.md R7, R9, R10, R11). -/

namespace Sys2Proof

/-- One byte of a byte sequence, of a buffer or of a key (R11). -/
abbrev Byte := BitVec 8

/-- One 32-bit word of the host bus (R9). -/
abbrev Word := BitVec 32

/-- The value `V(b)` of an 8-byte block or of one 8-byte DES key (R7, R11). -/
abbrev Block := BitVec 64

/-- A byte offset inside the 16 KiB register window (R9). -/
abbrev Offset := BitVec 14

/-- A HOSTTXN record (R102). -/
abbrev Record := BitVec 48

end Sys2Proof
end

