-- ==== Sys2Proof/Machine/Bits.lean ====
section
/-! DEFINITION. Bit and byte helpers: DES bit numbering, selection tables, 28-bit rotations and big-endian
byte order (spec/00_scope.md R10 to R12, spec/20_memory.md R73, R74, spec/40_des_engine.md R141). -/

namespace Sys2Proof.Machine

/-- DES bit `i` of an `n`-bit value, bit 1 the most significant: `bitD(v, n, i) = v[n - i]` (R10). -/
def bitD {n : Nat} (v : BitVec n) (i : Nat) : Bool := v.getLsbD (n - i)

/-- `Perm(T, v, n)`: DES bit `i` of the `m`-bit result is DES bit `T[i]` of `v` (R12, R141). -/
def perm {n : Nat} (m : Nat) (table : List Nat) (v : BitVec n) : BitVec m :=
  table.foldl (fun u j => u.shiftConcat (bitD v j)) 0#m

/-- `rotl_28(v, s)`, towards DES bit 1 (R12). -/
def rotl28 (v : BitVec 28) (s : Nat) : BitVec 28 := (v <<< s) ||| (v >>> (28 - s))

/-- `rotr_28(v, s)`, the inverse rotation (R12). -/
def rotr28 (v : BitVec 28) (s : Nat) : BitVec 28 := (v >>> s) ||| (v <<< (28 - s))

/-- Four bytes as a word, the first byte most significant (R11, R73). -/
def wordOfBytes (b0 b1 b2 b3 : Byte) : Word := b0 ++ b1 ++ b2 ++ b3

/-- Byte `i` of `Bytes_4(w)`, byte 0 being `w[31:24]` (R11, R73, R263). -/
def wordByte (w : Word) (i : Nat) : Byte := w.extractLsb' (24 - 8 * i) 8

/-- The first word of a block: block bytes 0 to 3 (R75). -/
def blockHi (b : Block) : Word := b.extractLsb' 32 32

/-- The second word of a block: block bytes 4 to 7 (R75). -/
def blockLo (b : Block) : Word := b.extractLsb' 0 32

/-- The block made of two words, the word at the lower offset first (R74, R75). -/
def blockOfWords (hi lo : Word) : Block := hi ++ lo

/-- The bytes of a `8 * k`-bit value, most significant first: `Bytes_k` (R11). -/
def bytesBE {n : Nat} (v : BitVec n) : Nat → List Byte
  | 0 => []
  | k + 1 => v.extractLsb' (8 * k) 8 :: bytesBE v k

/-- The value of a byte sequence, the first byte most significant: `V` (R11), cut to `n` bits. -/
def valueBE (n : Nat) (bs : List Byte) : BitVec n :=
  bs.foldl (fun acc b => (acc <<< 8) ||| b.setWidth n) 0#n

end Sys2Proof.Machine
end

