-- ==== Sys2Proof/Machine/Des.lean ====
section
/-! DEFINITION. The DES engine as functions: key schedule, round function, block transform
(spec/40_des_engine.md R150 to R169). -/

namespace Sys2Proof.Machine

/-! ## Key schedule -/

/-- C0, DES bits 1 to 28 of PC1's output (R150). -/
def keyC0 (k : Block) : BitVec 28 := (perm 56 tablePC1 k).extractLsb' 28 28

/-- D0, DES bits 29 to 56 of PC1's output (R150). -/
def keyD0 (k : Block) : BitVec 28 := (perm 56 tablePC1 k).extractLsb' 0 28

/-- The subkey of a pair of key-schedule halves: `Perm(PC2, C ‖ D, 56)` (R152). -/
def subkey (c d : BitVec 28) : BitVec 48 := perm 48 tablePC2 (c ++ d)

/-- The subkeys of the rounds whose rotation amounts are listed, from the halves before the first of them (R151, R152). -/
def subkeysFrom (c d : BitVec 28) : List Nat → List (BitVec 48)
  | [] => []
  | s :: shifts => subkey (rotl28 c s) (rotl28 d s) :: subkeysFrom (rotl28 c s) (rotl28 d s) shifts

/-- `KS(k) = [K_1, ..., K_16]` (R150 to R152, R154). -/
def keySchedule (k : Block) : List (BitVec 48) := subkeysFrom (keyC0 k) (keyD0 k) leftShifts

/-! ## The round function F -/

/-- Row of a 6-bit group: its first and last bits, the first the high one (R162). -/
def groupRow (g : BitVec 6) : BitVec 2 := g.extractLsb' 5 1 ++ g.extractLsb' 0 1

/-- Column of a 6-bit group: its middle four bits (R162). -/
def groupCol (g : BitVec 6) : BitVec 4 := g.extractLsb' 1 4

/-- `y_j`: group `B_j = x[53-6j : 48-6j]` looked up in S-box `j` (R161, R162). -/
def sboxOutput (box : List Nat) (x : BitVec 48) (j : Nat) : BitVec 4 :=
  sboxEntry box (groupRow (x.extractLsb' (48 - 6 * j) 6)) (groupCol (x.extractLsb' (48 - 6 * j) 6))

/-- `y_1 ‖ y_2 ‖ ... ‖ y_8`, `y_1` the most significant nibble (R163). -/
def sboxLayer (x : BitVec 48) : BitVec 32 :=
  sboxOutput sbox1 x 1 ++ sboxOutput sbox2 x 2 ++ sboxOutput sbox3 x 3 ++ sboxOutput sbox4 x 4 ++
    sboxOutput sbox5 x 5 ++ sboxOutput sbox6 x 6 ++ sboxOutput sbox7 x 7 ++ sboxOutput sbox8 x 8

/-- `F(R, K)`: expansion, subkey mix, S-boxes, P (R160 to R164). -/
def roundF (r : BitVec 32) (k : BitVec 48) : BitVec 32 :=
  perm 32 tableP (sboxLayer (perm 48 tableE r ^^^ k))

/-! ## The block transform -/

/-- L0: DES bits 1 to 32 of IP's output (R165). -/
def blockL0 (v : Block) : BitVec 32 := (perm 64 tableIP v).extractLsb' 32 32

/-- R0: DES bits 33 to 64 of IP's output (R165). -/
def blockR0 (v : Block) : BitVec 32 := (perm 64 tableIP v).extractLsb' 0 32

/-- One Feistel round on `(L, R)` (R166). -/
def feistelRound (lr : BitVec 32 × BitVec 32) (k : BitVec 48) : BitVec 32 × BitVec 32 :=
  (lr.2, lr.1 ^^^ roundF lr.2 k)

/-- `Perm(IPinv, R ‖ L, 64)` of a pair `(L, R)`: the swap and the final permutation (R167). -/
def finalBlock (lr : BitVec 32 × BitVec 32) : Block := perm 64 tableIPinv (lr.2 ++ lr.1)

/-- The block transform with its round subkeys in the order they are used (R165 to R167). -/
def desWith (subkeys : List (BitVec 48)) (v : Block) : Block :=
  finalBlock (subkeys.foldl feistelRound (blockL0 v, blockR0 v))

/-- `DES_enc(key, b)` on values: round `i` uses `K_i` (R168). -/
def desEnc (key v : Block) : Block := desWith (keySchedule key) v

/-- `DES_dec(key, b)` on values: round `i` uses `K_{17-i}` (R153, R169). -/
def desDec (key v : Block) : Block := desWith (keySchedule key).reverse v

end Sys2Proof.Machine
end

