-- ==== Sys2Proof/Syntax.lean ====
section
/-! DEFINITION. The instructions of the core: one constructor for each row of
spec/opcode_table.json (spec/30_encoding.md R104, R109). -/

namespace Sys2Proof

/-- CTRL.MODE (R101): the chaining mode. -/
inductive Mode where
  | ecb
  | cbc
  deriving DecidableEq, Repr, Inhabited

/-- CTRL.CIPHER (R101): the block cipher T the chaining mode runs over. -/
inductive Cipher where
  | des
  | tdes2
  | tdes3
  deriving DecidableEq, Repr, Inhabited

/-- CTRL.DIR (R101): the source's `cipher` (ENC) or `decipher` (DEC). Also the direction of one DES pass (R170). -/
inductive Dir where
  | enc
  | dec
  deriving DecidableEq, Repr, Inhabited

/-- What the decode function of R105 returns for a legal word. -/
structure Command where
  mode : Mode
  cipher : Cipher
  dir : Dir
  deriving DecidableEq, Repr, Inhabited

/-- The twelve commands (R240 to R251), issued by a CTRL write, and the two host transactions (R260, R261). -/
inductive Instr where
  | desEcbEnc
  | desEcbDec
  | tdes2EcbEnc
  | tdes2EcbDec
  | tdes3EcbEnc
  | tdes3EcbDec
  | desCbcEnc
  | desCbcDec
  | tdes2CbcEnc
  | tdes2CbcDec
  | tdes3CbcEnc
  | tdes3CbcDec
  | rd32 (offset : Offset)
  | wr32 (offset : Offset) (data : Word)
  deriving DecidableEq, Repr

end Sys2Proof
end

