-- ==== Sys2Proof/Machine/Engine.lean ====
section
/-! DEFINITION. The types of the core's internal state, which no host access reads (spec/10_state.md R41 to R44). -/

namespace Sys2Proof.Machine

/-- The key bytes `KEY[0 .. KEY_SIZE(T) - 1]` a command latches (R223, R200): K1; K1 ‖ K2; or K1 ‖ K2 ‖ K3. The
constructor is the cipher T, so a latched key always has T's size. -/
inductive CipherKey where
  | des (k1 : Block)
  | tdes2 (k1 k2 : Block)
  | tdes3 (k1 k2 k3 : Block)
  deriving DecidableEq, Repr, Inhabited

/-- The command latch, written at a valid START (R41, R223). `cmd.cipher` is the constructor of `key`. -/
structure Cmd where
  /-- `cmd.dir` -/
  dir : Dir
  /-- `cmd.mode` -/
  mode : Mode
  /-- `cmd.n`, the byte length: the copy of IN_LEN. -/
  n : Word
  /-- `cmd.nblk = cmd.n / 8` -/
  nblk : Nat
  /-- `cmd.key` and, as its constructor, `cmd.cipher` -/
  key : CipherKey
  deriving DecidableEq, Repr, Inhabited

/-- The Triple-DES stage number `stg` (R43). -/
inductive Stage where
  | one
  | two
  | three
  deriving DecidableEq, Repr, Inhabited

/-- The Feistel datapath registers of one DES pass (R44). -/
structure Datapath where
  l : BitVec 32
  r : BitVec 32
  c : BitVec 28
  d : BitVec 28
  /-- the round counter, `0 ≤ rnd ≤ 16` -/
  rnd : Fin 17
  pdir : Dir
  pkey : Block
  deriving DecidableEq, Repr, Inhabited

/-- All the internal state: command latch and block sequencer (R41), chain register (R42), Triple-DES stage state
(R43), Feistel datapath (R44). -/
structure Engine where
  cmd : Cmd
  /-- the index of the next block to process -/
  idx : Nat
  /-- `CH`, the chain register -/
  ch : Block
  stg : Stage
  /-- `X`, the block between Triple-DES stages -/
  x : Block
  dp : Datapath
  deriving DecidableEq, Repr, Inhabited

end Sys2Proof.Machine
end

