-- ==== Sys2Proof/Machine/TripleDes.lean ====
section
/-! DEFINITION. The Triple-DES composer and the block cipher T of a latched key, as functions
(spec/41_triple_des.md R200 to R209, spec/40_des_engine.md R140). -/

namespace Sys2Proof.Machine

/-- The cipher composition E-D-E: K1 first, K3 last (R201). -/
def edeCipher (k1 k2 k3 b : Block) : Block := desEnc k3 (desDec k2 (desEnc k1 b))

/-- The decipher composition: K3 first, K1 last (R202; spec/90_conflicts.md C1). -/
def edeDecipher (k1 k2 k3 b : Block) : Block := desDec k1 (desEnc k2 (desDec k3 b))

/-- `TDES2.cipher`, K3 := K1 (R200, R204). -/
def tdes2Enc (k1 k2 b : Block) : Block := edeCipher k1 k2 k1 b

/-- `TDES2.decipher`, K3 := K1 (R200, R205). -/
def tdes2Dec (k1 k2 b : Block) : Block := edeDecipher k1 k2 k1 b

/-- `TDES3.cipher` (R206). -/
def tdes3Enc (k1 k2 k3 b : Block) : Block := edeCipher k1 k2 k3 b

/-- `TDES3.decipher` (R207). -/
def tdes3Dec (k1 k2 k3 b : Block) : Block := edeDecipher k1 k2 k3 b

/-- `T.cipher(key, block)` of the cipher T whose key is latched (R140). -/
def CipherKey.enc : CipherKey → Block → Block
  | .des k1, b => desEnc k1 b
  | .tdes2 k1 k2, b => tdes2Enc k1 k2 b
  | .tdes3 k1 k2 k3, b => tdes3Enc k1 k2 k3 b

/-- `T.decipher(key, block)` of the cipher T whose key is latched (R140). -/
def CipherKey.dec : CipherKey → Block → Block
  | .des k1, b => desDec k1 b
  | .tdes2 k1 k2, b => tdes2Dec k1 k2 b
  | .tdes3 k1 k2 k3, b => tdes3Dec k1 k2 k3 b

/-- `T.cipher` or `T.decipher`, by direction (R225). -/
def CipherKey.apply (key : CipherKey) : Dir → Block → Block
  | .enc => key.enc
  | .dec => key.dec

/-- `cmd.cipher` (R41): which cipher a latched key is for. -/
def CipherKey.cipher : CipherKey → Cipher
  | .des _ => .des
  | .tdes2 _ _ => .tdes2
  | .tdes3 _ _ _ => .tdes3

end Sys2Proof.Machine
end

