-- ==== Sys2Proof/Machine/Datapath.lean ====
section
/-! DEFINITION. The hardware form of the cipher: the Feistel round datapath and the Triple-DES stage sequencer, on the
registers of spec/10_state.md R43 and R44 (spec/40_des_engine.md R170 to R173, spec/41_triple_des.md R203). -/

namespace Sys2Proof.Machine

/-- Pass load: a DES pass of direction `dir` on key `key` and input block `vin` (R170). -/
def passLoad (dir : Dir) (key vin : Block) : Datapath :=
  { l := blockL0 vin, r := blockR0 vin, c := keyC0 key, d := keyD0 key, rnd := 0, pdir := dir, pkey := key }

/-- The next value of the round counter, which is bounded and never wraps (R31, R44). -/
def nextRound (rnd : Fin 17) : Fin 17 :=
  if h : rnd.val < 16 then ⟨rnd.val + 1, by omega⟩ else rnd

/-- The rotated halves and the swap of one round: the new `(C, D)`, the round's subkey `k`, `rnd <- r` (R171). -/
def roundWith (c d : BitVec 28) (k : BitVec 48) (p : Datapath) : Datapath :=
  { p with l := p.r, r := p.l ^^^ roundF p.r k, c := c, d := d, rnd := nextRound p.rnd }

/-- Round step of an encryption pass: rotate left by LEFT_SHIFTS[r], then take the subkey K_r (R171, R155). -/
def roundStepEnc (p : Datapath) : Datapath :=
  let c := rotl28 p.c (leftShift (p.rnd.val + 1))
  let d := rotl28 p.d (leftShift (p.rnd.val + 1))
  roundWith c d (subkey c d) p

/-- Round step of a decryption pass: take the subkey K_{17-r}, then rotate right by LEFT_SHIFTS[17-r] (R171, R155). -/
def roundStepDec (p : Datapath) : Datapath :=
  let c := rotr28 p.c (leftShift (17 - (p.rnd.val + 1)))
  let d := rotr28 p.d (leftShift (17 - (p.rnd.val + 1)))
  roundWith c d (subkey p.c p.d) p

/-- One round step, while `rnd < 16` (R171). -/
def roundStep (p : Datapath) : Datapath :=
  if p.rnd.val < 16 then
    match p.pdir with
    | .enc => roundStepEnc p
    | .dec => roundStepDec p
  else p

/-- `n` round steps. -/
def roundSteps : Nat → Datapath → Datapath
  | 0, p => p
  | n + 1, p => roundSteps n (roundStep p)

/-- The datapath at the end of a pass: load, then sixteen round steps (R170, R171, R353). -/
def passRun (dir : Dir) (key vin : Block) : Datapath := roundSteps 16 (passLoad dir key vin)

/-- Pass finish: the pass result `vout` (R172). -/
def passResult (p : Datapath) : Block := finalBlock (p.l, p.r)

/-- The direction of the pass of a Triple-DES stage (R203's table). -/
def stageDir : Dir → Stage → Dir
  | .enc, .one => .enc
  | .enc, .two => .dec
  | .enc, .three => .enc
  | .dec, .one => .dec
  | .dec, .two => .enc
  | .dec, .three => .dec

/-- The key of the pass of a Triple-DES stage (R203's table). -/
def stageKey (k1 k2 k3 : Block) : Dir → Stage → Block
  | .enc, .one => k1
  | .enc, .two => k2
  | .enc, .three => k3
  | .dec, .one => k3
  | .dec, .two => k2
  | .dec, .three => k1

/-- One Triple-DES stage: a pass whose input is X and whose result goes to X (R203). -/
def runStage (k1 k2 k3 : Block) (dir : Dir) (stg : Stage) (e : Engine) : Engine :=
  { e with
    stg := stg
    dp := passRun (stageDir dir stg) (stageKey k1 k2 k3 dir stg) e.x
    x := passResult (passRun (stageDir dir stg) (stageKey k1 k2 k3 dir stg) e.x) }

/-- A Triple-DES operation on the registers: X loaded, stages 1, 2 and 3, the result in X (R203). -/
def runStages (k1 k2 k3 : Block) (dir : Dir) (b : Block) (e : Engine) : Engine :=
  runStage k1 k2 k3 dir .three (runStage k1 k2 k3 dir .two (runStage k1 k2 k3 dir .one { e with x := b, stg := .one }))

/-- The engine after it has run T in direction `dir` on block `b`, and the block T gives. A DES command runs one pass and
does not use the Triple-DES stage state (R43, R168, R169); TDES2 takes K3 := K1 (R200). -/
def runCipher (dir : Dir) (b : Block) (e : Engine) : Engine × Block :=
  match e.cmd.key with
  | .des k1 => ({ e with dp := passRun dir k1 b }, passResult (passRun dir k1 b))
  | .tdes2 k1 k2 => (runStages k1 k2 k1 dir b e, (runStages k1 k2 k1 dir b e).x)
  | .tdes3 k1 k2 k3 => (runStages k1 k2 k3 dir b e, (runStages k1 k2 k3 dir b e).x)

end Sys2Proof.Machine
end

