-- ==== Sys2Proof/Config.lean ====
section
/-! DEFINITION. What the spec fixes for the machine, what an implementation fixes, and the free values
(spec/00_scope.md R7, R8; spec/93_implementation_defined.md U6, U10, U11). -/

namespace Sys2Proof

/-- BLOCK_SIZE of DES and of both Triple-DES variants, in bytes (R7). -/
def Config.blockSize : Nat := 8

/-- KEY_SIZE in bytes: 8, 16 and 24 (R7). -/
def Config.keySize : Cipher → Nat
  | .des => 8
  | .tdes2 => 16
  | .tdes3 => 24

/-- The size of the register window in bytes: offsets 0x0000 to 0x3FFF (R9, R70). -/
def Config.windowBytes : Nat := 0x4000

/-- FREE CONSTANT: which 16 KiB slot of the bus the platform gives the core (R8, D2). No body: a statement holds for
every BASE. -/
opaque Config.baseSlot : Nat

/-- BASE, aligned to 0x4000 for every value of the free constant (R8). -/
def Config.base : Nat := Config.windowBytes * Config.baseSlot

/-- The capacity State.reset names: 511 stands for BUF_BYTES = 8 * (511 + 1) = 4096, the largest legal one.
BUF_BYTES itself is a parameter each state carries, so a statement over all states quantifies over it
(R8, D12; DESIGN CHOICE, notes/assumptions/1.md). -/
def Config.resetBufBlocks : Fin 512 := 511

/-- FREE VALUE: what the internal registers hold after the `n`-th completion; R229 leaves them unspecified. No body. -/
opaque Config.freeEngine : Nat → Machine.Engine

end Sys2Proof
end

