-- ==== Sys2Proof/WellFormed.lean ====
section
/-! DEFINITION. Which instructions are well formed (spec/30_encoding.md R102 and the constraint of
spec/opcode_table.json on OFFSET). -/

namespace Sys2Proof

/-- `OFFSET[1:0] = 00`, the one constraint the opcode table puts on an operand (R72, R102). -/
def offsetAligned (o : Offset) : Bool := o.extractLsb' 0 2 == 0#2

/-- A well-formed instruction. A command has no operand field (R103). A transaction whose offset is not
aligned is still a record, and its access is refused (R72): it is no well-formed instruction. -/
def Instr.wf : Instr → Bool
  | .rd32 o => offsetAligned o
  | .wr32 o _ => offsetAligned o
  | .desEcbEnc | .desEcbDec | .tdes2EcbEnc | .tdes2EcbDec | .tdes3EcbEnc | .tdes3EcbDec
  | .desCbcEnc | .desCbcDec | .tdes2CbcEnc | .tdes2CbcDec | .tdes3CbcEnc | .tdes3CbcDec => true

end Sys2Proof
end

