-- ==== Sys2Proof/Decode.lean ====
section
/-! DEFINITION. Decoding and encoding of the two formats, CTRL and HOSTTXN (spec/30_encoding.md R100 to R108). -/

namespace Sys2Proof

open Sys2Proof.Machine (bytesBE valueBE)

/-- The two encoded formats, each of one fixed width (R100, R108). -/
inductive Format where
  | ctrl
  | hosttxn
  deriving DecidableEq, Repr

/-- Why a word or a record is no instruction. -/
inductive DecodeError where
  /-- Fewer bytes than the format has (R100). -/
  | tooShort
  /-- A command word with START = 0: it issues nothing (R107). -/
  | startClear
  /-- A 1 in RSVD[31:6] of a command word (R105, R106). -/
  | reservedBits
  /-- MODE = 10 or MODE = 11 (R105, R106). -/
  | reservedMode
  /-- CIPHER = 11 (R105, R106). -/
  | reservedCipher
  /-- A record with RSVD (bit 46) = 1 is not a transaction (R102). -/
  | reservedRecordBit
  /-- A read record whose DATA is not 0 (R102, R104; DEDUCED, notes/assumptions/7.md). -/
  | readWithData
  deriving DecidableEq, Repr

/-- The fields of a CTRL word (R101). -/
def ctrlStart (w : Word) : Bool := w.getLsbD 0

/-- DIR of a CTRL word (R101). -/
def ctrlDir (w : Word) : Dir := if w.getLsbD 1 then .dec else .enc

/-- CIPHER of a CTRL word, with 11 reserved (R101). -/
def ctrlCipher (w : Word) : Option Cipher :=
  if w.extractLsb' 2 2 = 0#2 then some .des
  else if w.extractLsb' 2 2 = 1#2 then some .tdes2
  else if w.extractLsb' 2 2 = 2#2 then some .tdes3
  else none

/-- MODE of a CTRL word, with 10 and 11 reserved (R101). -/
def ctrlMode (w : Word) : Option Mode :=
  if w.extractLsb' 4 2 = 0#2 then some .ecb
  else if w.extractLsb' 4 2 = 1#2 then some .cbc
  else none

/-- The decode function of R105, its tests in R105's order. R105 is total over the words with START = 1;
a word with START = 0 is rejected by a name of its own (R107). -/
def decodeCtrl (w : Word) : Except DecodeError Command :=
  if ctrlStart w = false then .error .startClear
  else if w.extractLsb' 6 26 ≠ 0#26 then .error .reservedBits
  else match ctrlMode w, ctrlCipher w with
    | none, _ => .error .reservedMode
    | some _, none => .error .reservedCipher
    | some m, some c => .ok ⟨m, c, ctrlDir w⟩

/-- The instruction a command is (R104, R109). -/
def Command.instr : Command → Instr
  | ⟨.ecb, .des, .enc⟩ => .desEcbEnc
  | ⟨.ecb, .des, .dec⟩ => .desEcbDec
  | ⟨.ecb, .tdes2, .enc⟩ => .tdes2EcbEnc
  | ⟨.ecb, .tdes2, .dec⟩ => .tdes2EcbDec
  | ⟨.ecb, .tdes3, .enc⟩ => .tdes3EcbEnc
  | ⟨.ecb, .tdes3, .dec⟩ => .tdes3EcbDec
  | ⟨.cbc, .des, .enc⟩ => .desCbcEnc
  | ⟨.cbc, .des, .dec⟩ => .desCbcDec
  | ⟨.cbc, .tdes2, .enc⟩ => .tdes2CbcEnc
  | ⟨.cbc, .tdes2, .dec⟩ => .tdes2CbcDec
  | ⟨.cbc, .tdes3, .enc⟩ => .tdes3CbcEnc
  | ⟨.cbc, .tdes3, .dec⟩ => .tdes3CbcDec

/-- The command an instruction is, if it is one (R104). -/
def Instr.command : Instr → Option Command
  | .desEcbEnc => some ⟨.ecb, .des, .enc⟩
  | .desEcbDec => some ⟨.ecb, .des, .dec⟩
  | .tdes2EcbEnc => some ⟨.ecb, .tdes2, .enc⟩
  | .tdes2EcbDec => some ⟨.ecb, .tdes2, .dec⟩
  | .tdes3EcbEnc => some ⟨.ecb, .tdes3, .enc⟩
  | .tdes3EcbDec => some ⟨.ecb, .tdes3, .dec⟩
  | .desCbcEnc => some ⟨.cbc, .des, .enc⟩
  | .desCbcDec => some ⟨.cbc, .des, .dec⟩
  | .tdes2CbcEnc => some ⟨.cbc, .tdes2, .enc⟩
  | .tdes2CbcDec => some ⟨.cbc, .tdes2, .dec⟩
  | .tdes3CbcEnc => some ⟨.cbc, .tdes3, .enc⟩
  | .tdes3CbcDec => some ⟨.cbc, .tdes3, .dec⟩
  | .rd32 _ => none
  | .wr32 _ _ => none

/-- W of a HOSTTXN record (R102). -/
def recordWrite (r : Record) : Bool := r.getLsbD 47

/-- RSVD of a HOSTTXN record (R102). -/
def recordReserved (r : Record) : Bool := r.getLsbD 46

/-- OFFSET of a HOSTTXN record, neither scaled nor sign-extended (R102, R103). -/
def recordOffset (r : Record) : Offset := r.extractLsb' 32 14

/-- DATA of a HOSTTXN record (R102). -/
def recordData (r : Record) : Word := r.extractLsb' 0 32

/-- The transaction a record encodes (R102, R104). An offset with OFFSET[1:0] ≠ 00 decodes, and its access is
refused when it is performed (R72). -/
def decodeTxn (r : Record) : Except DecodeError Instr :=
  if recordReserved r then .error .reservedRecordBit
  else if recordWrite r then .ok (.wr32 (recordOffset r) (recordData r))
  else if recordData r = 0#32 then .ok (.rd32 (recordOffset r))
  else .error .readWithData

/-- How many bytes an encoding of the format has: one 32-bit word or one 48-bit record (R100, R108). -/
def Format.bytes : Format → Nat
  | .ctrl => 4
  | .hosttxn => 6

/-- Decoding of one format from bytes, most significant byte first (R14, R102); the bytes that follow are returned. -/
def decode (f : Format) (bs : List Byte) : Except DecodeError (Instr × List Byte) :=
  if bs.length < f.bytes then .error .tooShort
  else match f with
    | .ctrl => (decodeCtrl (valueBE 32 (bs.take 4))).map fun c => (c.instr, bs.drop 4)
    | .hosttxn => (decodeTxn (valueBE 48 (bs.take 6))).map fun i => (i, bs.drop 6)

/-- The host's question of one opcode-table row: the instruction decoded from bits `w` of `nbits` bits, bit 0 the
least significant. The first byte of the encoding is its most significant (R14, R102). -/
def decodeTableWord (nbits w : Nat) : Option Instr :=
  if nbits = 32 then ((decode .ctrl (bytesBE (BitVec.ofNat 32 w) 4)).toOption).map Prod.fst
  else if nbits = 48 then ((decode .hosttxn (bytesBE (BitVec.ofNat 48 w) 6)).toOption).map Prod.fst
  else none

/-! ## The encoder -/

/-- MODE bits (R101). -/
def Mode.bits : Mode → BitVec 2
  | .ecb => 0b00#2
  | .cbc => 0b01#2

/-- CIPHER bits (R101). -/
def Cipher.bits : Cipher → BitVec 2
  | .des => 0b00#2
  | .tdes2 => 0b01#2
  | .tdes3 => 0b10#2

/-- DIR bit (R101). -/
def Dir.bits : Dir → BitVec 1
  | .enc => 0b0#1
  | .dec => 0b1#1

/-- The command word: RSVD = 0, then MODE, CIPHER, DIR and START = 1 (R101, R104). -/
def Command.word (c : Command) : Word := 0#26 ++ c.mode.bits ++ c.cipher.bits ++ c.dir.bits ++ 1#1

/-- The HOSTTXN record of a read: W = 0, RSVD = 0, DATA = 0 (R102, R104). -/
def readRecord (o : Offset) : Record := 0b00#2 ++ o ++ 0#32

/-- The HOSTTXN record of a write: W = 1, RSVD = 0 (R102, R104). -/
def writeRecord (o : Offset) (d : Word) : Record := 0b10#2 ++ o ++ d

/-- The format an instruction is encoded in (R100). -/
def Instr.format : Instr → Format
  | .rd32 _ => .hosttxn
  | .wr32 _ _ => .hosttxn
  | .desEcbEnc | .desEcbDec | .tdes2EcbEnc | .tdes2EcbDec | .tdes3EcbEnc | .tdes3EcbDec
  | .desCbcEnc | .desCbcDec | .tdes2CbcEnc | .tdes2CbcDec | .tdes3CbcEnc | .tdes3CbcDec => .ctrl

/-- The bytes of an instruction, most significant first: the CTRL values of R104's table and the records of R102. -/
def encode : Instr → List Byte
  | .desEcbEnc => bytesBE 0x00000001#32 4
  | .desEcbDec => bytesBE 0x00000003#32 4
  | .tdes2EcbEnc => bytesBE 0x00000005#32 4
  | .tdes2EcbDec => bytesBE 0x00000007#32 4
  | .tdes3EcbEnc => bytesBE 0x00000009#32 4
  | .tdes3EcbDec => bytesBE 0x0000000B#32 4
  | .desCbcEnc => bytesBE 0x00000011#32 4
  | .desCbcDec => bytesBE 0x00000013#32 4
  | .tdes2CbcEnc => bytesBE 0x00000015#32 4
  | .tdes2CbcDec => bytesBE 0x00000017#32 4
  | .tdes3CbcEnc => bytesBE 0x00000019#32 4
  | .tdes3CbcDec => bytesBE 0x0000001B#32 4
  | .rd32 o => bytesBE (readRecord o) 6
  | .wr32 o d => bytesBE (writeRecord o d) 6

end Sys2Proof
end

