-- ==== Sys2Proof/Machine/State.lean ====
section
/-! DEFINITION. The state of the core (spec/10_state.md R33 to R49) and its reset values (spec/70_reset_and_hazards.md
R340), the reasons a fault is recorded and a step is refused. -/

namespace Sys2Proof.Machine

/-- The faults of the model (R320). No step answers `Outcome.fault`: R320 has a model record a fault in its state
(`State.faults`) and go on, so each constructor says who records it. -/
inductive Fault where
  /-- Recorded by every host access that is not an aligned 32-bit access (R72): RD32, WR32 and accesses of another
  width. Nothing else changes, as on the hardware, which signals a bus error. Safe. -/
  | hostBusError
  /-- Recorded by every host access but a STATUS read while BUSY = 1 (R350). The access has no effect in the model, where
  the hardware is unspecified: UNSAFE for a claim that does not ask for an empty fault set (notes/assumptions/6.md). -/
  | hostHazard
  /-- Recorded by a host read, or a command's block read, of a buffer byte with no initialised mark (R48, R224, R260).
  The hardware would use the RAM's contents: UNSAFE for a claim that does not ask for an empty fault set
  (notes/assumptions/5.md). -/
  | uninitRead
  deriving DecidableEq, Repr

/-- Why a step is refused. -/
inductive Refusal where
  /-- An instruction the model gives no meaning. No arm of `exec` answers it. Safe. -/
  | notModelled (mnemonic : String)
  /-- Raised by `step` on a pending 48-bit record that is not a transaction (R102, U15: "a model refuses it"). Safe. -/
  | notATransaction (why : DecodeError)
  deriving DecidableEq, Repr

/-- The set of recorded fault reasons (R320): one mark for each reason. -/
structure FaultSet where
  hostBusError : Bool
  hostHazard : Bool
  uninitRead : Bool
  deriving DecidableEq, Repr

/-- `phase` (R40): the command-engine phase. STATUS.BUSY is 1 exactly when it is `busy`. -/
inductive Phase where
  | idle
  | busy
  deriving DecidableEq, Repr

/-- KEY0 to KEY5 (R38): the 24-byte key store `KEY[0..23]`, `KEY[4w]` in bits [31:24] of word `w`. -/
structure KeyStore where
  key0 : Word
  key1 : Word
  key2 : Word
  key3 : Word
  key4 : Word
  key5 : Word
  deriving DecidableEq, Repr

/-- IV0 and IV1 (R39): `IV[0..7]`, `IV[0]` in bits [31:24] of IV0. -/
structure IvStore where
  iv0 : Word
  iv1 : Word
  deriving DecidableEq, Repr

/-- A buffer: the bytes that carry an initialised mark, by rising index (R45, R48). An index that is not listed is a
byte with no mark, and it has no value. -/
abbrev Memory := List Host.Cell

/-- A host access of a width other than 32 bits, which the core refuses (R72). -/
inductive OtherWidth where
  | w8
  | w16
  | w64
  deriving DecidableEq, Repr

/-- What reaches the core from outside, in the order it is issued (R82, R266). -/
inductive Input where
  /-- One host bus access, as its HOSTTXN record (R102). -/
  | txn (r : Record)
  /-- A command word the host writes to CTRL: the pseudo-instruction CMD (R110), given as its CTRL word (R100). -/
  | cmd (w : Word)
  /-- The pseudo-instruction POLL: RD32 0x004 until the value's bit 0 is 0 (R110). -/
  | poll
  /-- A host access of another width (R72). -/
  | narrow (width : OtherWidth)
  /-- A 32-bit access at a full bus address, which the platform routes here if it lies in the window (R70, R79). -/
  | bus (write : Bool) (address : Nat) (data : Word)
  /-- The platform asserts the reset input (R341, R342). -/
  | reset
  deriving DecidableEq, Repr

/-- What the core's host port answers to the latest host access (R72, R260, R261). -/
inductive Response where
  /-- No access since reset. -/
  | nothing
  /-- A read's returned value. -/
  | data (v : Word)
  /-- An accepted write. -/
  | accepted
  /-- A bus error (R72). -/
  | busError
  /-- "return no value": a hazardous or uninitialised access (R260, R261). -/
  | noValue
  /-- The access lies outside the window: another target answers it (R79). -/
  | notSelected
  deriving DecidableEq, Repr

/-- Which agent moves next while a command runs: the host, or the core's own sequencer. -/
inductive Agent where
  | host
  | core
  deriving DecidableEq, Repr

/-- The whole state (R49). BUSY is `phase`; `init_in` and `init_out` are which indexes `inBuf` and `outBuf` list. -/
structure State where
  /-- The parameter BUF_BYTES = 8 * (bufBlocks + 1), constant along every step (R8, D12). -/
  bufBlocks : Fin 512
  /-- CTRL[31:1] (R34). -/
  ctrl : BitVec 31
  /-- STATUS.DONE (R35). -/
  done : Bool
  /-- STATUS.ERR (R35, R300). -/
  err : BitVec 3
  /-- IRQ_EN.IE (R36). -/
  ie : Bool
  /-- KEY_LEN (R37). -/
  keyLen : Word
  /-- IN_LEN (R37). -/
  inLen : Word
  /-- OUT_LEN (R37). -/
  outLen : Word
  /-- KEY (R38). -/
  key : KeyStore
  /-- IV (R39). -/
  iv : IvStore
  /-- IN_BUF and `init_in` (R45, R48). -/
  inBuf : Memory
  /-- OUT_BUF and `init_out` (R45, R48). -/
  outBuf : Memory
  /-- `fault` (R49, R320). -/
  faults : FaultSet
  /-- `phase`, and with it STATUS.BUSY (R40). -/
  phase : Phase
  /-- cmd, idx, CH, stg, X, L, R, C, D, rnd, pdir, pkey (R41 to R44). -/
  engine : Engine
  /-- Model's own: the answer to the latest host access. -/
  resp : Response
  /-- Model's own: the inputs to come, the next one first (D37: the host's transactions are the program). -/
  inputs : List Input
  /-- Model's own: LATENCY as an interleaving. While BUSY, the next entry says who moves; with none left, the core
  moves (R8, R352; notes/assumptions/2.md). -/
  turns : List Agent
  /-- Model's own: how many commands have completed, the argument of `Config.freeEngine`. -/
  freeCount : Nat
  deriving DecidableEq, Repr

/-- BUF_BYTES: a multiple of 8 from 8 to 4096 (R8). -/
def State.bufBytes (s : State) : Nat := 8 * (s.bufBlocks.val + 1)

/-- No fault recorded (R340). -/
def FaultSet.empty : FaultSet := ⟨false, false, false⟩

/-- The internal registers after reset. R340 leaves them unspecified: the model names 0
(DESIGN CHOICE, notes/assumptions/3.md). -/
def Engine.atReset : Engine :=
  { cmd := { dir := .enc, mode := .ecb, n := 0#32, nblk := 0, key := .des 0#64 }
    idx := 0
    ch := 0#64
    stg := .one
    x := 0#64
    dp := { l := 0#32, r := 0#32, c := 0#28, d := 0#28, rnd := 0, pdir := .enc, pkey := 0#64 } }

/-- The reset state of an instance whose buffers hold `8 * (blocks + 1)` bytes (R340). -/
def State.resetWith (blocks : Fin 512) : State :=
  { bufBlocks := blocks
    ctrl := 0#31
    done := false
    err := 0#3
    ie := false
    keyLen := 0#32
    inLen := 0#32
    outLen := 0#32
    key := ⟨0#32, 0#32, 0#32, 0#32, 0#32, 0#32⟩
    iv := ⟨0#32, 0#32⟩
    inBuf := []
    outBuf := []
    faults := FaultSet.empty
    phase := .idle
    engine := Engine.atReset
    resp := .nothing
    inputs := []
    turns := []
    freeCount := 0 }

/-- The machine right after reset (R340). -/
def State.reset : State := State.resetWith Config.resetBufBlocks

end Sys2Proof.Machine
end

