-- ==== Sys2Proof/Machine/Flags.lean ====
section
/-! DEFINITION. The flags: STATUS, its words and its updates, the error codes and the interrupt output
(spec/10_state.md R35, R36, spec/60_exceptions.md R300 to R310, spec/43_host_interface.md R265). -/

namespace Sys2Proof.Machine

/-- The errors a START can end with (R300). -/
inductive ErrCode where
  | lengthMismatch
  | alignmentError
  | keySizeError
  | illegalCommand
  | lengthRange
  deriving DecidableEq, Repr

/-- The value STATUS.ERR takes (R300). Codes 6 and 7 are never produced. -/
def ErrCode.code : ErrCode → BitVec 3
  | .lengthMismatch => 1#3
  | .alignmentError => 2#3
  | .keySizeError => 3#3
  | .illegalCommand => 4#3
  | .lengthRange => 5#3

/-- STATUS.BUSY: 1 exactly when `phase = BUSY` (R40). -/
def State.busy (s : State) : Bool :=
  match s.phase with
  | .idle => false
  | .busy => true

/-- The value a read of STATUS returns: `ERR << 8 | DONE << 1 | BUSY`, reserved bits 0 (R35, R262). -/
def State.statusWord (s : State) : Word :=
  0#21 ++ s.err ++ 0#6 ++ BitVec.ofBool s.done ++ BitVec.ofBool s.busy

/-- The interrupt output `IRQ = STATUS.DONE and IRQ_EN.IE`, level-sensitive and active high (R310). -/
def State.irq (s : State) : Bool := s.done && s.ie

/-- The effect of a STATUS write of `d` (ACK): with `d[1] = 1`, DONE and ERR are cleared; every other bit is ignored
(R35, R265). -/
def State.writeStatus (s : State) (d : Word) : State :=
  if d.getLsbD 1 then { s with done := false, err := 0#3 } else s

end Sys2Proof.Machine
end

