-- ==== Sys2Proof/Machine/Operands.lean ====
section
/-! DEFINITION. Every operand form: what an offset selects, the words of the key store and of the IV, the key a command
selects (spec/20_memory.md R71, spec/10_state.md R33, R38, R39, spec/30_encoding.md R103). -/

namespace Sys2Proof.Machine

/-! ## The window map -/

/-- What an aligned offset of the window selects (R71). -/
inductive Slot where
  | ctrl
  | status
  | irqEn
  | keyLen
  | inLen
  | outLen
  /-- KEYw -/
  | key (w : Fin 6)
  /-- IVw -/
  | iv (w : Fin 2)
  /-- the word of IN_BUF that begins at byte `j` -/
  | inBuf (j : Nat)
  /-- the word of OUT_BUF that begins at byte `j` -/
  | outBuf (j : Nat)
  /-- reads as zero, ignores writes (R78) -/
  | reserved
  deriving DecidableEq, Repr

/-- The slot of an offset at or above 0x1000: the two buffers and the reserved ranges around them (R71). -/
def bufferSlot (bufBytes a : Nat) : Slot :=
  if 0x1000 ≤ a ∧ a < 0x1000 + bufBytes then .inBuf (a - 0x1000)
  else if 0x2000 ≤ a ∧ a < 0x2000 + bufBytes then .outBuf (a - 0x2000)
  else .reserved

/-- The slot an aligned offset selects, in a core whose buffers hold `bufBytes` bytes (R33, R71). -/
def slotAt (bufBytes : Nat) (o : Offset) : Slot :=
  if o = 0x000#14 then .ctrl
  else if o = 0x004#14 then .status
  else if o = 0x008#14 then .irqEn
  else if o = 0x00C#14 then .keyLen
  else if o = 0x010#14 then .inLen
  else if o = 0x014#14 then .outLen
  else if o = 0x020#14 then .key 0
  else if o = 0x024#14 then .key 1
  else if o = 0x028#14 then .key 2
  else if o = 0x02C#14 then .key 3
  else if o = 0x030#14 then .key 4
  else if o = 0x034#14 then .key 5
  else if o = 0x040#14 then .iv 0
  else if o = 0x044#14 then .iv 1
  else bufferSlot bufBytes o.toNat

/-- The offset inside the window of a bus address, if the window holds it (R70, R79). -/
def windowOffset (address : Nat) : Option Offset :=
  if Config.base ≤ address ∧ address < Config.base + Config.windowBytes then
    some (BitVec.ofNat 14 (address - Config.base))
  else none

/-- The bus address of an offset (R70). -/
def busAddress (o : Offset) : Nat := Config.base + o.toNat

/-! ## The key store and the IV -/

/-- The word KEYw (R38). -/
def KeyStore.get (k : KeyStore) (w : Fin 6) : Word :=
  match w with
  | 0 => k.key0
  | 1 => k.key1
  | 2 => k.key2
  | 3 => k.key3
  | 4 => k.key4
  | 5 => k.key5

/-- The key store with the word KEYw replaced: `KEY[4w..4w+3] <- Bytes_4(v)` (R38, R263). -/
def KeyStore.set (k : KeyStore) (w : Fin 6) (v : Word) : KeyStore :=
  match w with
  | 0 => { k with key0 := v }
  | 1 => { k with key1 := v }
  | 2 => { k with key2 := v }
  | 3 => { k with key3 := v }
  | 4 => { k with key4 := v }
  | 5 => { k with key5 := v }

/-- `V(KEY[0..7])` (R38). -/
def KeyStore.k1 (k : KeyStore) : Block := blockOfWords k.key0 k.key1

/-- `V(KEY[8..15])` (R38). -/
def KeyStore.k2 (k : KeyStore) : Block := blockOfWords k.key2 k.key3

/-- `V(KEY[16..23])` (R38). -/
def KeyStore.k3 (k : KeyStore) : Block := blockOfWords k.key4 k.key5

/-- `KEY[0 .. KEY_SIZE(T) - 1]`: the key bytes that CIPHER selects (R38, R103, R223). -/
def KeyStore.latch (k : KeyStore) : Cipher → CipherKey
  | .des => .des k.k1
  | .tdes2 => .tdes2 k.k1 k.k2
  | .tdes3 => .tdes3 k.k1 k.k2 k.k3

/-- The word IVw (R39). -/
def IvStore.get (v : IvStore) (w : Fin 2) : Word :=
  match w with
  | 0 => v.iv0
  | 1 => v.iv1

/-- The IV with the word IVw replaced (R39, R263). -/
def IvStore.set (v : IvStore) (w : Fin 2) (d : Word) : IvStore :=
  match w with
  | 0 => { v with iv0 := d }
  | 1 => { v with iv1 := d }

/-- `V(IV[0..7])` (R39). -/
def IvStore.value (v : IvStore) : Block := blockOfWords v.iv0 v.iv1

end Sys2Proof.Machine
end

