-- ==== Sys2Proof/Machine/Ops.lean ====
section
/-! DEFINITION. The named operations over buffers and registers: buffer accesses, recording a fault, error completion (the
core's form of trap entry) and success completion (spec/10_state.md R45, R48, spec/20_memory.md R73, R80,
spec/60_exceptions.md R302, R303, R320). -/

namespace Sys2Proof.Machine

/-! ## Buffers -/

/-- The canonical form of a buffer: indexes strictly rising. No entry can equal what an unlisted index reads as, since
an unlisted index has no value. -/
def Memory.wf : Memory → Bool
  | [] => true
  | (a, _) :: rest => rest.all (fun c => decide (a < c.1)) && Memory.wf rest

/-- Every listed index lies below the buffer's capacity (R45, R79). -/
def Memory.below (bound : Nat) (m : Memory) : Bool := m.all (fun c => decide (c.1 < bound))

/-- Byte `a` of a buffer, if it carries an initialised mark (R48). -/
def Memory.read : Memory → Nat → Option Byte
  | [], _ => none
  | (k, b) :: rest, a => if k = a then some b else Memory.read rest a

/-- Writes byte `a` and sets its initialised mark, keeping the canonical form (R48, R261). -/
def Memory.write : Memory → Nat → Byte → Memory
  | [], a, v => [(a, v)]
  | (k, b) :: rest, a, v =>
    if a < k then (a, v) :: (k, b) :: rest
    else if a = k then (a, v) :: rest
    else (k, b) :: Memory.write rest a v

/-- The word at bytes `a` to `a + 3`, if all four carry a mark: the byte at `a` most significant (R73). -/
def Memory.readWord (m : Memory) (a : Nat) : Option Word :=
  match m.read a, m.read (a + 1), m.read (a + 2), m.read (a + 3) with
  | some b0, some b1, some b2, some b3 => some (wordOfBytes b0 b1 b2 b3)
  | _, _, _, _ => none

/-- Writes the four bytes of a word at `a` to `a + 3` and sets their marks (R73, R263). -/
def Memory.writeWord (m : Memory) (a : Nat) (w : Word) : Memory :=
  (((m.write a (wordByte w 0)).write (a + 1) (wordByte w 1)).write (a + 2) (wordByte w 2)).write (a + 3) (wordByte w 3)

/-- `V(MemRead(buf, a, 8))`, if all eight bytes carry a mark (R80, R224). -/
def Memory.readBlock (m : Memory) (a : Nat) : Option Block :=
  match m.readWord a, m.readWord (a + 4) with
  | some hi, some lo => some (blockOfWords hi lo)
  | _, _ => none

/-- `MemWrite(buf, a, 8, Bytes_8(v))`, setting the eight marks (R80, R226). -/
def Memory.writeBlock (m : Memory) (a : Nat) (v : Block) : Memory :=
  (m.writeWord a (blockHi v)).writeWord (a + 4) (blockLo v)

/-- Writes blocks one after another from byte `a` on (R226, R230). -/
def Memory.writeBlocks (m : Memory) (a : Nat) : List Block → Memory
  | [] => m
  | v :: vs => Memory.writeBlocks (m.writeBlock a v) (a + 8) vs

/-- The `n` blocks from byte `a` on, if all their bytes carry a mark (R230). -/
def Memory.readBlocks (m : Memory) (a : Nat) : Nat → Option (List Block)
  | 0 => some []
  | n + 1 =>
    match m.readBlock a, Memory.readBlocks m (a + 8) n with
    | some v, some vs => some (v :: vs)
    | _, _ => none

/-! ## Faults -/

/-- Whether a reason is recorded (R320). -/
def FaultSet.has (f : FaultSet) : Fault → Bool
  | .hostBusError => f.hostBusError
  | .hostHazard => f.hostHazard
  | .uninitRead => f.uninitRead

/-- The set with a reason added; no reason is ever removed (R320). -/
def FaultSet.record (f : FaultSet) : Fault → FaultSet
  | .hostBusError => { f with hostBusError := true }
  | .hostHazard => { f with hostHazard := true }
  | .uninitRead => { f with uninitRead := true }

/-- A refused access: HostBusError recorded, a bus error signalled, nothing else changed (R72). -/
def State.refuseAccess (s : State) : State :=
  { s with faults := s.faults.record .hostBusError, resp := .busError }

/-- A hazardous access: HostHazard recorded, no effect, no value (R350). -/
def State.hazard (s : State) : State :=
  { s with faults := s.faults.record .hostHazard, resp := .noValue }

/-- A host read of a byte with no mark: UninitRead recorded, no value (R48, R260). -/
def State.uninitAccess (s : State) : State :=
  { s with faults := s.faults.record .uninitRead, resp := .noValue }

/-! ## Ends of a command -/

/-- ERROR COMPLETION, the core's form of trap entry: DONE <- 1, ERR <- e; nothing else changes (R302). There is no vector,
no saved state and no mode; the return from it is `State.writeStatus` (R304). -/
def State.errorComplete (s : State) (e : ErrCode) : State :=
  { s with done := true, err := e.code }

/-- Success completion: BUSY <- 0, DONE <- 1, ERR <- 0, phase <- IDLE. The internal registers are unspecified from here on
(R229, R303): a free value (notes/assumptions/4.md). -/
def State.complete (s : State) : State :=
  { s with
    phase := .idle
    done := true
    err := 0#3
    engine := Config.freeEngine s.freeCount
    freeCount := s.freeCount + 1 }

end Sys2Proof.Machine
end

