-- ==== Sys2Proof/Machine/Chaining.lean ====
section
/-! DEFINITION. The chaining-mode controllers: entry validation, issue, ECB and CBC block steps, completion, and the whole
command as one function (spec/42_chaining_modes.md R220 to R238). -/

namespace Sys2Proof.Machine

/-! ## Entry validation -/

/-- The checks of a START write in R221's order: the first that fails gives the error; with none, the decoded command. -/
def validate (w keyLen inLen outLen : Word) (bufBytes : Nat) : Except ErrCode Command :=
  match decodeCtrl w with
  | .error _ => .error .illegalCommand
  | .ok c =>
    if inLen ≠ outLen then .error .lengthMismatch
    else if inLen.toNat % Config.blockSize ≠ 0 then .error .alignmentError
    else if keyLen.toNat ≠ Config.keySize c.cipher then .error .keySizeError
    else if bufBytes < inLen.toNat then .error .lengthRange
    else .ok c

/-! ## The block sequencer -/

/-- The command latch a valid START writes (R41, R223). -/
def State.latchCmd (s : State) (c : Command) : Cmd :=
  { dir := c.dir
    mode := c.mode
    n := s.inLen
    nblk := s.inLen.toNat / Config.blockSize
    key := s.key.latch c.cipher }

/-- CH after a valid START: a CBC command loads the IV, an ECB command leaves CH (R42, R223). -/
def State.loadChain (s : State) : Mode → Block
  | .ecb => s.engine.ch
  | .cbc => s.iv.value

/-- Issue of a valid command (R223). -/
def State.issue (s : State) (c : Command) : State :=
  { s with
    engine := { s.engine with cmd := s.latchCmd c, ch := s.loadChain c.mode, idx := 0 }
    done := false
    err := 0#3
    phase := .busy }

/-- A START write of the word `w` while IDLE: validation, then error completion or issue (R222, R264). -/
def State.start (s : State) (w : Word) : State :=
  match validate w s.keyLen s.inLen s.outLen s.bufBytes with
  | .error e => s.errorComplete e
  | .ok c => s.issue c

/-- The engine after ECB block compute, and the output block (R225). -/
def ecbCompute (x : Block) (e : Engine) : Engine × Block := runCipher e.cmd.dir x e

/-- The engine after CBC block compute, CH updated, and the output block (R225). -/
def cbcCompute (x : Block) (e : Engine) : Engine × Block :=
  match e.cmd.dir with
  | .enc => ({ (runCipher .enc (x ^^^ e.ch) e).1 with ch := (runCipher .enc (x ^^^ e.ch) e).2 }, (runCipher .enc (x ^^^ e.ch) e).2)
  | .dec => ({ (runCipher .dec x e).1 with ch := x }, (runCipher .dec x e).2 ^^^ e.ch)

/-- Block write, and the advance of `idx` (R226, R227, R228). -/
def State.writeOutBlock (s : State) (r : Engine × Block) : State :=
  { s with
    outBuf := s.outBuf.writeBlock (8 * s.engine.idx) r.2
    engine := { r.1 with idx := s.engine.idx + 1 } }

/-- A block step that meets a byte with no mark: UninitRead recorded, and the step stops there (R224). -/
def State.uninitBlock (s : State) : State := { s with faults := s.faults.record .uninitRead }

/-- One ECB step: block read, compute, write (R224, R226, R227). -/
def State.ecbStep (s : State) : State :=
  match s.inBuf.readBlock (8 * s.engine.idx) with
  | some x => s.writeOutBlock (ecbCompute x s.engine)
  | none => s.uninitBlock

/-- One CBC step: block read, compute with CH, write (R224, R226, R228). -/
def State.cbcStep (s : State) : State :=
  match s.inBuf.readBlock (8 * s.engine.idx) with
  | some x => s.writeOutBlock (cbcCompute x s.engine)
  | none => s.uninitBlock

/-- One block step, by mode (R227, R228). -/
def State.blockStep (s : State) : State :=
  match s.engine.cmd.mode with
  | .ecb => s.ecbStep
  | .cbc => s.cbcStep

/-- One step of the core's own sequencer while BUSY: a block step while `idx < cmd.nblk`, completion when `idx = cmd.nblk`
(R227 to R229). No rule gives a step for `idx > cmd.nblk`, which no command reaches: the state is then left as it is. -/
def State.coreStep (s : State) : State :=
  if s.engine.idx < s.engine.cmd.nblk then s.blockStep
  else if s.engine.idx = s.engine.cmd.nblk then s.complete
  else s

/-! ## The whole command as one function -/

/-- The output blocks of a run over `xs` from chain value `ch`, for any block cipher given by its two operations
(R225, R230) and any BLOCK_SIZE of `n` bits (R236). -/
def chainBlocks {n : Nat} (enc dec : BitVec n → BitVec n) : Mode → Dir → BitVec n → List (BitVec n) → List (BitVec n)
  | _, _, _, [] => []
  | .ecb, .enc, ch, x :: xs => enc x :: chainBlocks enc dec .ecb .enc ch xs
  | .ecb, .dec, ch, x :: xs => dec x :: chainBlocks enc dec .ecb .dec ch xs
  | .cbc, .enc, ch, x :: xs => enc (x ^^^ ch) :: chainBlocks enc dec .cbc .enc (enc (x ^^^ ch)) xs
  | .cbc, .dec, ch, x :: xs => (dec x ^^^ ch) :: chainBlocks enc dec .cbc .dec x xs

/-- `Run` of R230 for a command that passed validation, on the input blocks: the output blocks. -/
def runBlocks (c : Command) (key : KeyStore) (iv : IvStore) (xs : List Block) : List Block :=
  chainBlocks (key.latch c.cipher).enc (key.latch c.cipher).dec c.mode c.dir iv.value xs

end Sys2Proof.Machine
end

