-- ==== Sys2Proof/Machine/Access.lean ====
section
/-! DEFINITION. What a host access returns and does: ReadValue, WriteEffect, and the two accesses with their checks
(spec/43_host_interface.md R260 to R265). -/

namespace Sys2Proof.Machine

/-- ReadValue by slot (R262); `none` where a byte of the word carries no initialised mark (R48). -/
def State.readSlot (s : State) : Slot → Option Word
  | .ctrl => some (s.ctrl ++ 0#1)
  | .status => some s.statusWord
  | .irqEn => some (0#31 ++ BitVec.ofBool s.ie)
  | .keyLen => some s.keyLen
  | .inLen => some s.inLen
  | .outLen => some s.outLen
  | .key w => some (s.key.get w)
  | .iv w => some (s.iv.get w)
  | .inBuf j => s.inBuf.readWord j
  | .outBuf j => s.outBuf.readWord j
  | .reserved => some 0#32

/-- A CTRL write: the stored bits, then, with `d[0] = 1`, the issue of the word that is written (R34, R263, R264). -/
def State.writeCtrl (s : State) (d : Word) : State :=
  if ctrlStart d then { s with ctrl := d.extractLsb' 1 31 }.start d else { s with ctrl := d.extractLsb' 1 31 }

/-- WriteEffect by slot (R263). -/
def State.writeSlot (s : State) (d : Word) : Slot → State
  | .ctrl => s.writeCtrl d
  | .status => s.writeStatus d
  | .irqEn => { s with ie := d.getLsbD 0 }
  | .keyLen => { s with keyLen := d }
  | .inLen => { s with inLen := d }
  | .outLen => { s with outLen := d }
  | .key w => { s with key := s.key.set w d }
  | .iv w => { s with iv := s.iv.set w d }
  | .inBuf j => { s with inBuf := s.inBuf.writeWord j d }
  | .outBuf j => { s with outBuf := s.outBuf.writeWord j d }
  | .reserved => s

/-- RD32's pseudocode (R260): the alignment check, the busy check, the marks, then the value. -/
def State.hostRead (s : State) (o : Offset) : State :=
  if offsetAligned o = false then s.refuseAccess
  else if s.phase = .busy ∧ o ≠ 0x004#14 then s.hazard
  else match s.readSlot (slotAt s.bufBytes o) with
    | some v => { s with resp := .data v }
    | none => s.uninitAccess

/-- WR32's pseudocode (R261): the alignment check, the busy check, then the effect. -/
def State.hostWrite (s : State) (o : Offset) (d : Word) : State :=
  if offsetAligned o = false then s.refuseAccess
  else if s.phase = .busy then s.hazard
  else { s with resp := .accepted }.writeSlot d (slotAt s.bufBytes o)

end Sys2Proof.Machine
end

