-- ==== Sys2Proof/Machine/Commands.lean ====
section
/-! DEFINITION. The twelve commands (spec/42_chaining_modes.md R240 to R251). A command is the CTRL write of its word
(spec/30_encoding.md R103, R104, R110 CMD): validation, then error completion or issue, in that one write; while BUSY the
core's sequencer (`State.coreStep`, R227 to R229) runs it block by block to completion. -/

namespace Sys2Proof.Machine

/-- DES.ECB.ENC: CTRL = 0x00000001 (R240). -/
def execDesEcbEnc (s : State) : Host.Outcome State Fault Refusal := .next (s.hostWrite 0x000#14 0x00000001#32)

/-- DES.ECB.DEC: CTRL = 0x00000003 (R241). -/
def execDesEcbDec (s : State) : Host.Outcome State Fault Refusal := .next (s.hostWrite 0x000#14 0x00000003#32)

/-- TDES2.ECB.ENC: CTRL = 0x00000005 (R242). -/
def execTdes2EcbEnc (s : State) : Host.Outcome State Fault Refusal := .next (s.hostWrite 0x000#14 0x00000005#32)

/-- TDES2.ECB.DEC: CTRL = 0x00000007 (R243). -/
def execTdes2EcbDec (s : State) : Host.Outcome State Fault Refusal := .next (s.hostWrite 0x000#14 0x00000007#32)

/-- TDES3.ECB.ENC: CTRL = 0x00000009 (R244). -/
def execTdes3EcbEnc (s : State) : Host.Outcome State Fault Refusal := .next (s.hostWrite 0x000#14 0x00000009#32)

/-- TDES3.ECB.DEC: CTRL = 0x0000000B (R245). -/
def execTdes3EcbDec (s : State) : Host.Outcome State Fault Refusal := .next (s.hostWrite 0x000#14 0x0000000B#32)

/-- DES.CBC.ENC: CTRL = 0x00000011 (R246). -/
def execDesCbcEnc (s : State) : Host.Outcome State Fault Refusal := .next (s.hostWrite 0x000#14 0x00000011#32)

/-- DES.CBC.DEC: CTRL = 0x00000013 (R247). -/
def execDesCbcDec (s : State) : Host.Outcome State Fault Refusal := .next (s.hostWrite 0x000#14 0x00000013#32)

/-- TDES2.CBC.ENC: CTRL = 0x00000015 (R248). -/
def execTdes2CbcEnc (s : State) : Host.Outcome State Fault Refusal := .next (s.hostWrite 0x000#14 0x00000015#32)

/-- TDES2.CBC.DEC: CTRL = 0x00000017 (R249). -/
def execTdes2CbcDec (s : State) : Host.Outcome State Fault Refusal := .next (s.hostWrite 0x000#14 0x00000017#32)

/-- TDES3.CBC.ENC: CTRL = 0x00000019 (R250). -/
def execTdes3CbcEnc (s : State) : Host.Outcome State Fault Refusal := .next (s.hostWrite 0x000#14 0x00000019#32)

/-- TDES3.CBC.DEC: CTRL = 0x0000001B (R251). -/
def execTdes3CbcDec (s : State) : Host.Outcome State Fault Refusal := .next (s.hostWrite 0x000#14 0x0000001B#32)

end Sys2Proof.Machine
end

