-- ==== Sys2Proof/Machine/HostPort.lean ====
section
/-! DEFINITION. The two host transactions (spec/43_host_interface.md R260, R261). -/

namespace Sys2Proof.Machine

/-- RD32: host read of one 32-bit word (R260). -/
def execRd32 (o : Offset) (s : State) : Host.Outcome State Fault Refusal := .next (s.hostRead o)

/-- WR32: host write of one 32-bit word (R261). -/
def execWr32 (o : Offset) (d : Word) (s : State) : Host.Outcome State Fault Refusal := .next (s.hostWrite o d)

end Sys2Proof.Machine
end

