-- ==== Sys2Proof/Machine/Dispatch.lean ====
section
/-! DEFINITION. The dispatch: one arm for each instruction. -/

namespace Sys2Proof.Machine

def exec (i : Instr) (s : State) : Host.Outcome State Fault Refusal :=
  match i with
  | .desEcbEnc => Sys2Proof.Machine.execDesEcbEnc s
  | .desEcbDec => Sys2Proof.Machine.execDesEcbDec s
  | .tdes2EcbEnc => Sys2Proof.Machine.execTdes2EcbEnc s
  | .tdes2EcbDec => Sys2Proof.Machine.execTdes2EcbDec s
  | .tdes3EcbEnc => Sys2Proof.Machine.execTdes3EcbEnc s
  | .tdes3EcbDec => Sys2Proof.Machine.execTdes3EcbDec s
  | .desCbcEnc => Sys2Proof.Machine.execDesCbcEnc s
  | .desCbcDec => Sys2Proof.Machine.execDesCbcDec s
  | .tdes2CbcEnc => Sys2Proof.Machine.execTdes2CbcEnc s
  | .tdes2CbcDec => Sys2Proof.Machine.execTdes2CbcDec s
  | .tdes3CbcEnc => Sys2Proof.Machine.execTdes3CbcEnc s
  | .tdes3CbcDec => Sys2Proof.Machine.execTdes3CbcDec s
  | .rd32 o => Sys2Proof.Machine.execRd32 o s
  | .wr32 o d => Sys2Proof.Machine.execWr32 o d s

end Sys2Proof.Machine
end

