-- ==== Sys2Proof/Machine/Cycle.lean ====
section
/-! DEFINITION. One step of the whole machine: the host's next input, or the core's own sequencer
(spec/20_memory.md R82, spec/30_encoding.md R110, spec/70_reset_and_hazards.md R340, R341, R352). -/

namespace Sys2Proof.Machine

/-- Reset asserted by the platform at any time: every value of R340, the command of a BUSY core abandoned, every buffer byte
without a mark (R340, R341). The parameter BUF_BYTES and what is still to come from outside stay. -/
def State.applyReset (s : State) : State :=
  { State.resetWith s.bufBlocks with inputs := s.inputs, turns := s.turns, freeCount := s.freeCount }

/-- The instruction a pending command word is: its command (R104), or, for a word that is no command, the CTRL write
it is all the same (R105, R107, R264). -/
def cmdInstr (w : Word) : Instr :=
  match decodeCtrl w with
  | .ok c => c.instr
  | .error _ => .wr32 0x000#14 w

/-- The instruction of a 32-bit access at offset `o` (R260, R261). -/
def busInstr (write : Bool) (o : Offset) (data : Word) : Instr := if write then .wr32 o data else .rd32 o

/-- POLL goes on while the value read from STATUS has BUSY (bit 0) = 1 (R110). -/
def pollAgain : Response → Bool
  | .data v => v.getLsbD 0
  | .nothing => false
  | .accepted => false
  | .busError => false
  | .noValue => false
  | .notSelected => false

/-- One read of a POLL; the POLL stays the next input while it reads BUSY (R110). So an input behind it, a reset too, waits for
the POLL's end: the spec does not say how a reset meets a running POLL (R341; DESIGN CHOICE, notes/assumptions/19.md). A reset
between two of its reads is the list with those reads written out as `RD32 0x004` records before the reset. -/
def pollOnce (s : State) : Host.Outcome State Fault Refusal :=
  match exec (.rd32 0x004#14) s with
  | .next t => if pollAgain t.resp then .next { t with inputs := .poll :: t.inputs } else .next t
  | .fault f => .fault f
  | .refused r => .refused r

/-- Takes one input from outside (R82: each takes effect completely before the next). An access of another width is refused in
every phase (R72). While BUSY it fits R350 as well, and R260 and R261 order the two checks for 32-bit accesses only: the model
records HostBusError alone (DEDUCED, notes/assumptions/6.md). -/
def takeInput (input : Input) (s : State) : Host.Outcome State Fault Refusal :=
  match input with
  | .txn r =>
    match decodeTxn r with
    | .ok i => exec i s
    | .error e => .refused (.notATransaction e)
  | .cmd w => exec (cmdInstr w) s
  | .poll => pollOnce s
  | .narrow _ => .next s.refuseAccess
  | .bus write address data =>
    match windowOffset address with
    | some o => exec (busInstr write o data) s
    | none => .next { s with resp := .notSelected }
  | .reset => .next s.applyReset

/-- The host's move: its next input. With none left the core waits and nothing changes (R267). -/
def hostMove (s : State) : Host.Outcome State Fault Refusal :=
  match s.inputs with
  | [] => .next s
  | input :: rest => takeInput input { s with inputs := rest }

/-- One step while BUSY: `turns` says who moves; with no entry left, or nothing left to come from outside, the core does
(R352: a core that is BUSY eventually takes its next step). -/
def busyCycle (s : State) : Host.Outcome State Fault Refusal :=
  match s.inputs, s.turns with
  | [], _ => .next s.coreStep
  | _ :: _, [] => .next s.coreStep
  | _ :: _, .core :: rest => .next { s with turns := rest }.coreStep
  | _ :: _, .host :: rest => hostMove { s with turns := rest }

/-- One step of the machine (R82, R227 to R229). -/
def cycle (s : State) : Host.Outcome State Fault Refusal :=
  match s.phase with
  | .idle => hostMove s
  | .busy => busyCycle s

/-- The input that delivers an encoded instruction: a 32-bit command word or a 48-bit record (R100). -/
def tableInput (nbits w : Nat) : Option Input :=
  if nbits = 32 then some (.cmd (BitVec.ofNat 32 w))
  else if nbits = 48 then some (.txn (BitVec.ofNat 48 w))
  else none

/-- The state with an encoded instruction as the very next input; while BUSY the host is given the next move too
(notes/assumptions/2.md, notes/assumptions/8.md). -/
def placeInput (s : State) (nbits w : Nat) : State :=
  match tableInput nbits w with
  | none => s
  | some i =>
    match s.phase with
    | .idle => { s with inputs := i :: s.inputs }
    | .busy => { s with inputs := i :: s.inputs, turns := .host :: s.turns }

end Sys2Proof.Machine
end

