-- ==== Sys2Proof/Machine/Step.lean ====
section
/-! DEFINITION. The step of the machine and the placing of an instruction where it fetches the next one. -/

namespace Sys2Proof.Machine

/-- One step (`cycle`). -/
def step (s : State) : Host.Outcome State Fault Refusal := cycle s

/-- `s` with an encoded instruction as the very next input (`placeInput`). -/
def State.withFetchWord (s : State) (nbits w : Nat) : State := placeInput s nbits w

end Sys2Proof.Machine
end

