-- ==== Sys2Proof/Machine/Script.lean ====
section
/-! DEFINITION. The pseudo-instructions of the host's script notation and their expansions into inputs
(spec/30_encoding.md R109, R110). Where R110 leaves a length open: notes/assumptions/17.md and 18.md. -/

namespace Sys2Proof.Machine

/-- The pseudo-instructions of R110's table. -/
inductive Pseudo where
  | cmd (c : Command)
  | poll
  | ack
  | irqOn
  | irqOff
  /-- 8, 16 or 24 bytes -/
  | loadKey (k : List Byte)
  | loadIv (iv : Block)
  /-- a length that is a multiple of 4 -/
  | loadIn (b : List Byte)
  | setOut (n : Word)
  | fillOut (n : Nat) (v : Word)
  | readOut (n : Nat)
  | block (cipher : Cipher) (dir : Dir) (b : Block)
  deriving DecidableEq, Repr

/-- A byte sequence as words, four bytes a word, the first most significant (R73, R110). Bytes left over after the last whole
word, which R110's lengths do not have, are dropped (DESIGN CHOICE, notes/assumptions/18.md). -/
def wordsOf : List Byte → List Word
  | b0 :: b1 :: b2 :: b3 :: rest => wordOfBytes b0 b1 b2 b3 :: wordsOf rest
  | _ => []

/-- `WR32 o, d` as an input (R109). R110 bounds no expansion: an offset at or above 0x4000 has no 14-bit OFFSET, and it is the
bus access at `BASE + o`, outside the core (R79; DESIGN CHOICE, notes/assumptions/17.md). -/
def writeInput (o : Nat) (d : Word) : Input :=
  if o < Config.windowBytes then .txn (writeRecord (BitVec.ofNat 14 o) d) else .bus true (Config.base + o) d

/-- `RD32 o` as an input (R109). At or above 0x4000 it is the bus access at `BASE + o`, outside the core (R79; DESIGN CHOICE,
notes/assumptions/17.md). -/
def readInput (o : Nat) : Input :=
  if o < Config.windowBytes then .txn (readRecord (BitVec.ofNat 14 o)) else .bus false (Config.base + o) 0#32

/-- `WR32` of words at rising offsets, four bytes apart (R110). -/
def writeInputs (o : Nat) : List Word → List Input
  | [] => []
  | w :: ws => writeInput o w :: writeInputs (o + 4) ws

/-- `RD32` of `n` words at rising offsets (R110). -/
def readInputs (o : Nat) : Nat → List Input
  | 0 => []
  | n + 1 => readInput o :: readInputs (o + 4) n

/-- LOADIN (R110). R110 bounds no length: a length of 2^32 or more, which the 32-bit DATA of `WR32 0x010, n` cannot hold, is
written modulo 2^32 (DESIGN CHOICE, notes/assumptions/18.md). -/
def loadInInputs (ws : List Word) (n : Nat) : List Input :=
  writeInputs 0x1000 ws ++ [writeInput 0x010 (BitVec.ofNat 32 n)]

/-- BLOCK.<CIPHER>.<DIR>: one block through the ECB command (R110, R239). -/
def blockInputs (cipher : Cipher) (dir : Dir) (b : Block) : List Input :=
  loadInInputs [blockHi b, blockLo b] 8 ++
    [writeInput 0x014 8#32, writeInput 0x000 (Command.word ⟨.ecb, cipher, dir⟩), .poll] ++ readInputs 0x2000 2

/-- The expansion of a pseudo-instruction (R110). FILLOUT and READOUT of an `n` that is no multiple of 4, of which R110 says
nothing but `k < n/4`, take the whole words only: `n / 4` is rounded down (DESIGN CHOICE, notes/assumptions/18.md). -/
def Pseudo.expand : Pseudo → List Input
  | .cmd c => [writeInput 0x000 c.word]
  | .poll => [.poll]
  | .ack => [writeInput 0x004 0x00000002#32]
  | .irqOn => [writeInput 0x008 0x00000001#32]
  | .irqOff => [writeInput 0x008 0x00000000#32]
  | .loadKey k => writeInputs 0x020 (wordsOf k) ++ [writeInput 0x00C (BitVec.ofNat 32 k.length)]
  | .loadIv iv => writeInputs 0x040 [blockHi iv, blockLo iv]
  | .loadIn b => loadInInputs (wordsOf b) b.length
  | .setOut n => [writeInput 0x014 n]
  | .fillOut n v => writeInputs 0x2000 (List.replicate (n / 4) v)
  | .readOut n => readInputs 0x2000 (n / 4)
  | .block cipher dir b => blockInputs cipher dir b

end Sys2Proof.Machine
end

