-- ==== Sys2Proof/Safety.lean ====
section
/-! DEFINITION. What counts as a safe run, and the terms statements use (spec/60_exceptions.md R320,
spec/43_host_interface.md R266 to R268, spec/10_state.md R35, R41, R45, R48). -/

namespace Sys2Proof.Machine

/-- No fault is recorded: the premise under which a claim speaks of the hardware (R320). -/
abbrev State.FaultFree (s : State) : Prop := s.faults = FaultSet.empty

/-- The launch premise's part that every claim about a host program states (R268). -/
abbrev State.CleanEntry (s : State) : Prop := s.phase = .idle ∧ s.FaultFree

/-- A final state: the host's last transaction is done, no command is BUSY and no fault is recorded (R267, R320). -/
abbrev State.Final (s : State) : Prop := s.inputs = [] ∧ s.phase = .idle ∧ s.FaultFree

/-- The core is IDLE and a START of `c` passes every check of R221. -/
abbrev State.Ready (s : State) (c : Command) : Prop :=
  s.phase = .idle ∧ s.inLen = s.outLen ∧ s.inLen.toNat % Config.blockSize = 0 ∧
    s.keyLen.toNat = Config.keySize c.cipher ∧ s.inLen.toNat ≤ s.bufBytes

/-- The sequencer of a BUSY core stands inside its command: `0 ≤ idx ≤ cmd.nblk` (R41), `cmd.nblk` is `cmd.n / 8` of a
length that passed validation (R76, R221). -/
abbrev State.SequencerOk (s : State) : Prop :=
  s.engine.idx ≤ s.engine.cmd.nblk ∧ s.engine.cmd.n.toNat = 8 * s.engine.cmd.nblk ∧
    8 * s.engine.cmd.nblk ≤ s.bufBytes

/-- The invariant that every step keeps: the buffers are canonical and inside their capacity (R45, R48, R79), the relations
of BUSY, DONE and ERR (R35), no reserved error code (R300), the sequencer's bounds while BUSY (R41). -/
structure State.Inv (s : State) : Prop where
  inWf : s.inBuf.wf = true
  outWf : s.outBuf.wf = true
  inBelow : s.inBuf.below s.bufBytes = true
  outBelow : s.outBuf.below s.bufBytes = true
  busyClear : s.phase = .busy → s.done = false ∧ s.err = 0#3
  errDone : s.err ≠ 0#3 → s.done = true
  errCode : s.err.toNat ≤ 5
  sequencer : s.phase = .busy → s.SequencerOk

/-- The state without the internal registers, which no host access reads (R41 to R44). -/
def State.forgetEngine (s : State) : State := { s with engine := Engine.atReset }

/-- An outcome without the internal registers. -/
def forgetOutcome : Host.Outcome State Fault Refusal → Host.Outcome State Fault Refusal
  | .next s => .next s.forgetEngine
  | .fault f => .fault f
  | .refused r => .refused r

/-- An input that only reads STATUS: `RD32 0x004` or a POLL, all that R350 permits while BUSY. -/
def Input.readsStatus : Input → Bool
  | .txn r => r == readRecord 0x004#14
  | .poll => true
  | .cmd _ => false
  | .narrow _ => false
  | .bus _ _ _ => false
  | .reset => false

/-- The instruction an input makes the core perform, if it is one (R102, R110, R70). -/
def Input.instr : Input → Option Instr
  | .txn r => (decodeTxn r).toOption
  | .cmd w => some (cmdInstr w)
  | .poll => some (.rd32 0x004#14)
  | .narrow _ => none
  | .bus write address data => (windowOffset address).map fun o => busInstr write o data
  | .reset => none

/-- An instruction that may clear DONE and ERR: a STATUS write with `d[1] = 1`, a CTRL write with `d[0] = 1`, a command
(R265, R304). -/
def clearsStatus : Instr → Bool
  | .wr32 o d => (o == 0x004#14 && d.getLsbD 1) || (o == 0x000#14 && d.getLsbD 0)
  | .rd32 _ => false
  | .desEcbEnc | .desEcbDec | .tdes2EcbEnc | .tdes2EcbDec | .tdes3EcbEnc | .tdes3EcbDec
  | .desCbcEnc | .desCbcDec | .tdes2CbcEnc | .tdes2CbcDec | .tdes3CbcEnc | .tdes3CbcDec => true

/-- It is the core's move: BUSY, and the interleaving does not give this step to the host (R352). -/
abbrev State.CoreMoves (s : State) : Prop :=
  s.phase = .busy ∧ (s.inputs = [] ∨ s.turns.head? ≠ some .host)

end Sys2Proof.Machine
end

