-- ==== Sys2Proof/Certificates/Slice0/Obligations.lean ====
section
/-! DEFINITION. The statements for the provers. Each docstring names the rules of spec/ it rests on. -/

namespace Sys2Proof.Machine

/-- The twelve commands with their CTRL values, row by row of R104's table. -/
def commandTable : List (Word × Instr × Command) :=
  [(0x00000001#32, .desEcbEnc, ⟨.ecb, .des, .enc⟩),
   (0x00000003#32, .desEcbDec, ⟨.ecb, .des, .dec⟩),
   (0x00000005#32, .tdes2EcbEnc, ⟨.ecb, .tdes2, .enc⟩),
   (0x00000007#32, .tdes2EcbDec, ⟨.ecb, .tdes2, .dec⟩),
   (0x00000009#32, .tdes3EcbEnc, ⟨.ecb, .tdes3, .enc⟩),
   (0x0000000B#32, .tdes3EcbDec, ⟨.ecb, .tdes3, .dec⟩),
   (0x00000011#32, .desCbcEnc, ⟨.cbc, .des, .enc⟩),
   (0x00000013#32, .desCbcDec, ⟨.cbc, .des, .dec⟩),
   (0x00000015#32, .tdes2CbcEnc, ⟨.cbc, .tdes2, .enc⟩),
   (0x00000017#32, .tdes2CbcDec, ⟨.cbc, .tdes2, .dec⟩),
   (0x00000019#32, .tdes3CbcEnc, ⟨.cbc, .tdes3, .enc⟩),
   (0x0000001B#32, .tdes3CbcDec, ⟨.cbc, .tdes3, .dec⟩)]

/-- The offsets R71's map calls reserved, in a core whose buffers hold `bufBytes` bytes. -/
abbrev reservedOffset (bufBytes a : Nat) : Prop :=
  (0x0018 ≤ a ∧ a ≤ 0x001F) ∨ (0x0038 ≤ a ∧ a ≤ 0x003F) ∨ (0x0048 ≤ a ∧ a ≤ 0x0FFF) ∨
    (0x1000 + bufBytes ≤ a ∧ a ≤ 0x1FFF) ∨ (0x2000 + bufBytes ≤ a ∧ a ≤ 0x2FFF) ∨ 0x3000 ≤ a

/-- The values R340 states for reset. The internal registers, which R340 leaves unspecified, and the model's own fields are not
among them. -/
abbrev State.HasResetValues (s : State) : Prop :=
  s.ctrl = 0#31 ∧ s.phase = .idle ∧ s.done = false ∧ s.err = 0#3 ∧ s.ie = false ∧ s.irq = false ∧
    s.keyLen = 0#32 ∧ s.inLen = 0#32 ∧ s.outLen = 0#32 ∧
    s.key.k1 = 0#64 ∧ s.key.k2 = 0#64 ∧ s.key.k3 = 0#64 ∧ s.iv.value = 0#64 ∧
    (∀ a, s.inBuf.read a = none ∧ s.outBuf.read a = none) ∧ (∀ f, s.faults.has f = false)

/-- The value of STATUS by R262's formula: `zext_32(ERR) << 8 | DONE << 1 | BUSY`. -/
def statusValue (s : State) : Word :=
  s.err.setWidth 32 <<< 8 ||| (if s.done then 1#32 else 0#32) <<< 1 ||| (if s.phase = .busy then 1#32 else 0#32)

/-- KEY0 to KEY5, in the order of their offsets (R33). -/
def keyWords (s : State) : List Word := [s.key.key0, s.key.key1, s.key.key2, s.key.key3, s.key.key4, s.key.key5]

/-- The error code of a START of the word `w`, by R221's checks in R221's order; 0 when none fails. -/
def expectedCode (w keyLen inLen outLen : Word) (bufBytes : Nat) : BitVec 3 :=
  if ¬ ∃ row ∈ commandTable, row.1 = w then 4#3
  else if inLen ≠ outLen then 1#3
  else if inLen.toNat % 8 ≠ 0 then 2#3
  else if keyLen.toNat ≠ (if w.extractLsb' 2 2 = 0#2 then 8 else if w.extractLsb' 2 2 = 1#2 then 16 else 24) then 3#3
  else if bufBytes < inLen.toNat then 5#3
  else 0#3

end Sys2Proof.Machine

open Sys2Proof Sys2Proof.Machine

/-! ## Encoding -/

/-- R104, R102: words and records written out from the spec's tables decode to the rows they stand for. -/
def Obligations.SampleWordsDecodeToTheirRows : Prop :=
  decodeTableWord 32 0x00000001 = some .desEcbEnc ∧ decodeTableWord 32 0x0000000B = some .tdes3EcbDec ∧
  decodeTableWord 32 0x00000015 = some .tdes2CbcEnc ∧ decodeTableWord 32 0x0000000D = none ∧
  decodeTableWord 48 0x200400000000 = some (.rd32 0x2004#14) ∧
  decodeTableWord 48 0x802013345779 = some (.wr32 0x020#14 0x13345779#32) ∧
  decodeTableWord 48 0x400400000000 = none

/-- R100, R101, R102, R104, R108: in each format, exactly the bytes of an instruction's encoding decode to it, whatever
follows them. That nothing else decodes to it takes in the model's choice that a read record with DATA other than 0, of which
the spec says nothing, does not decode (DEDUCED, notes/assumptions/7.md). -/
def Obligations.DecodeExactlyInvertsEncode : Prop :=
  ∀ (f : Format) (i : Instr) (bs rest : List Byte),
    decode f bs = .ok (i, rest) ↔ i.format = f ∧ bs = encode i ++ rest

/-- R105: a word decodes to a command exactly when R104's table lists it, so exactly 12 words do and every other word is
Illegal. -/
def Obligations.ExactlyTwelveWordsAreCommands : Prop :=
  (∀ (w : Word) (c : Command), decodeCtrl w = .ok c ↔ ∃ row ∈ commandTable, row.1 = w ∧ row.2.2 = c) ∧
  (commandTable.map Prod.fst).Nodup ∧ commandTable.length = 12 ∧
  (∀ row ∈ commandTable, row.1.getLsbD 0 = true ∧ row.2.2.instr = row.2.1)

/-! ## Stepping -/

/-- R82, R260, R261: a pending record that decodes is performed by the step, alone and completely, on the state without it;
while BUSY it is so on the host's move, and that move is used up (inputs and moves are the model's own: notes/assumptions/2.md,
8.md). -/
def Obligations.StepPerformsPendingRecord : Prop :=
  ∀ (s : State) (r : Record) (i : Instr) (rest : List Input), s.inputs = .txn r :: rest → decodeTxn r = .ok i →
    (s.phase = .idle → step s = exec i { s with inputs := rest }) ∧
    (∀ ts, s.phase = .busy → s.turns = .host :: ts → step s = exec i { s with inputs := rest, turns := ts })

/-- R100, R102, R104: an encoding placed as the next input is what the next step performs. The placing is the model's own
(notes/assumptions/8.md). -/
def Obligations.PlacedEncodingIsPerformedNext : Prop :=
  ∀ (s : State) (nbits w : Nat) (i : Instr), decodeTableWord nbits w = some i →
    step (s.withFetchWord nbits w) = exec i s

/-- R102, R270: no step ends in a fault, and a step is refused only for a pending record that is no transaction. -/
def Obligations.StepStopsOnlyOnNonTransactions : Prop :=
  ∀ (s : State), (∀ f, step s ≠ .fault f) ∧
    (∀ x, step s = .refused x →
      ∃ r rest e, s.inputs = .txn r :: rest ∧ decodeTxn r = .error e ∧ x = .notATransaction e)

/-- R102: a record with RSVD = 1 is refused, whatever its other bits are. -/
def Obligations.ReservedRecordBitIsRefused : Prop :=
  ∀ (s : State) (r : Record) (rest : List Input), s.phase = .idle → s.inputs = .txn r :: rest → r.getLsbD 46 = true →
    step s = .refused (.notATransaction .reservedRecordBit)

/-- R110: POLL reads STATUS, is repeated while the value has BUSY = 1, and ends at the first value with BUSY = 0. (Inputs, moves
and the recorded answer are the model's own: notes/assumptions/2.md, 8.md, 9.md; that the POLL stays in front of a reset behind
it is the model's choice: notes/assumptions/19.md.) -/
def Obligations.PollRepeatsUntilBusyIsClear : Prop :=
  ∀ (s : State) (rest : List Input), s.inputs = .poll :: rest →
    (s.phase = .idle → step s = .next { s with inputs := rest, resp := .data (statusValue s) }) ∧
    (∀ ts, s.phase = .busy → s.turns = .host :: ts →
      step s = .next { s with turns := ts, resp := .data (statusValue s) })

/-- R70, R79: the window holds exactly the addresses BASE to BASE + 0x3FFF; an access there is the access at its offset, in an
IDLE core and, on the host's move (notes/assumptions/2.md), in a BUSY one; an access anywhere else changes nothing in the core.
That such an access is no hazard either, and that its recorded answer is `notSelected`, is the model's choice
(notes/assumptions/13.md; the answer's field is the model's own, notes/assumptions/9.md). -/
def Obligations.WindowSelectsItsAddresses : Prop :=
  (∀ o : Offset, windowOffset (busAddress o) = some o) ∧
  (∀ a : Nat, (windowOffset a).isSome = true ↔ Config.base ≤ a ∧ a ≤ Config.base + 0x3FFF) ∧
  (∀ (s : State) (o : Offset) (d : Word) (rest : List Input),
    (s.phase = .idle →
      (s.inputs = .bus true (busAddress o) d :: rest → step s = exec (.wr32 o d) { s with inputs := rest }) ∧
      (s.inputs = .bus false (busAddress o) d :: rest → step s = exec (.rd32 o) { s with inputs := rest })) ∧
    (∀ ts, s.phase = .busy → s.turns = .host :: ts →
      (s.inputs = .bus true (busAddress o) d :: rest →
        step s = exec (.wr32 o d) { s with inputs := rest, turns := ts }) ∧
      (s.inputs = .bus false (busAddress o) d :: rest →
        step s = exec (.rd32 o) { s with inputs := rest, turns := ts }))) ∧
  (∀ (s : State) (b : Bool) (a : Nat) (d : Word) (rest : List Input),
    s.inputs = .bus b a d :: rest → (a < Config.base ∨ Config.base + 0x4000 ≤ a) →
      (s.phase = .idle → step s = .next { s with inputs := rest, resp := .notSelected }) ∧
      (∀ ts, s.phase = .busy → s.turns = .host :: ts →
        step s = .next { s with inputs := rest, turns := ts, resp := .notSelected }))

/-! ## RD32 -/

/-- R262: the value RD32 returns at every aligned offset that the phase allows, and that nothing but the port's answer
changes. A buffer word needs the marks of its four bytes (R48). -/
def Obligations.ReadReturnsTheTablesValue : Prop :=
  ∀ (s : State) (o : Offset), offsetAligned o = true → (s.phase = .busy → o = 0x004#14) →
    (o = 0x000#14 → exec (.rd32 o) s = .next { s with resp := .data (s.ctrl ++ 0#1) }) ∧
    (o = 0x004#14 → exec (.rd32 o) s = .next { s with resp := .data (statusValue s) }) ∧
    (o = 0x008#14 → exec (.rd32 o) s = .next { s with resp := .data (if s.ie then 1#32 else 0#32) }) ∧
    (o = 0x00C#14 → exec (.rd32 o) s = .next { s with resp := .data s.keyLen }) ∧
    (o = 0x010#14 → exec (.rd32 o) s = .next { s with resp := .data s.inLen }) ∧
    (o = 0x014#14 → exec (.rd32 o) s = .next { s with resp := .data s.outLen }) ∧
    (∀ w, w ≤ 5 → o.toNat = 0x020 + 4 * w → exec (.rd32 o) s =
      .next { s with resp := .data ((keyWords s).getD w 0#32) }) ∧
    (∀ w, w ≤ 1 → o.toNat = 0x040 + 4 * w →
      exec (.rd32 o) s = .next { s with resp := .data ([s.iv.iv0, s.iv.iv1].getD w 0#32) }) ∧
    (∀ k b0 b1 b2 b3, 4 * k < s.bufBytes → o.toNat = 0x1000 + 4 * k →
      s.inBuf.read (4 * k) = some b0 → s.inBuf.read (4 * k + 1) = some b1 →
      s.inBuf.read (4 * k + 2) = some b2 → s.inBuf.read (4 * k + 3) = some b3 →
      exec (.rd32 o) s = .next { s with resp := .data (b0 ++ b1 ++ b2 ++ b3) }) ∧
    (∀ k b0 b1 b2 b3, 4 * k < s.bufBytes → o.toNat = 0x2000 + 4 * k →
      s.outBuf.read (4 * k) = some b0 → s.outBuf.read (4 * k + 1) = some b1 →
      s.outBuf.read (4 * k + 2) = some b2 → s.outBuf.read (4 * k + 3) = some b3 →
      exec (.rd32 o) s = .next { s with resp := .data (b0 ++ b1 ++ b2 ++ b3) }) ∧
    (reservedOffset s.bufBytes o.toNat → exec (.rd32 o) s = .next { s with resp := .data 0#32 })

/-- R48, R260: a host read of a buffer word with a byte that carries no mark records UninitRead, returns no value and
changes nothing else. -/
def Obligations.ReadOfUnmarkedByteRecordsUninitRead : Prop :=
  ∀ (s : State) (o : Offset) (k j : Nat), s.phase = .idle → 4 * k < s.bufBytes → j < 4 →
    (o.toNat = 0x1000 + 4 * k ∧ s.inBuf.read (4 * k + j) = none) ∨
      (o.toNat = 0x2000 + 4 * k ∧ s.outBuf.read (4 * k + j) = none) →
    exec (.rd32 o) s = .next { s with faults := { s.faults with uninitRead := true }, resp := .noValue }

/-- R77, R260: the frame of RD32. Whatever the offset and the phase, a read completes, and only the port's answer and the
fault set may differ. -/
def Obligations.ReadChangesNoState : Prop :=
  ∀ (s : State) (o : Offset), ∃ t, exec (.rd32 o) s = .next t ∧ { t with resp := s.resp, faults := s.faults } = s ∧
    ((∃ v, t.resp = .data v) → t.faults = s.faults)

/-! ## WR32 -/

/-- R263: the effect of WR32 at every aligned offset but CTRL's and STATUS's, in an IDLE core, and that nothing else
changes: of the buffers, only the four bytes written change. (The answer `accepted` is the model's own, notes/assumptions/9.md.)
-/
def Obligations.WriteHasTheTablesEffect : Prop :=
  ∀ (s : State) (o : Offset) (d : Word), offsetAligned o = true → s.phase = .idle →
    (o = 0x008#14 → exec (.wr32 o d) s = .next { s with resp := .accepted, ie := d.getLsbD 0 }) ∧
    (o = 0x00C#14 → exec (.wr32 o d) s = .next { s with resp := .accepted, keyLen := d }) ∧
    (o = 0x010#14 → exec (.wr32 o d) s = .next { s with resp := .accepted, inLen := d }) ∧
    (o = 0x014#14 → exec (.wr32 o d) s = .next { s with resp := .accepted, outLen := d }) ∧
    (o = 0x020#14 → exec (.wr32 o d) s = .next { s with resp := .accepted, key := { s.key with key0 := d } }) ∧
    (o = 0x024#14 → exec (.wr32 o d) s = .next { s with resp := .accepted, key := { s.key with key1 := d } }) ∧
    (o = 0x028#14 → exec (.wr32 o d) s = .next { s with resp := .accepted, key := { s.key with key2 := d } }) ∧
    (o = 0x02C#14 → exec (.wr32 o d) s = .next { s with resp := .accepted, key := { s.key with key3 := d } }) ∧
    (o = 0x030#14 → exec (.wr32 o d) s = .next { s with resp := .accepted, key := { s.key with key4 := d } }) ∧
    (o = 0x034#14 → exec (.wr32 o d) s = .next { s with resp := .accepted, key := { s.key with key5 := d } }) ∧
    (o = 0x040#14 → exec (.wr32 o d) s = .next { s with resp := .accepted, iv := { s.iv with iv0 := d } }) ∧
    (o = 0x044#14 → exec (.wr32 o d) s = .next { s with resp := .accepted, iv := { s.iv with iv1 := d } }) ∧
    (∀ k, 4 * k < s.bufBytes → o.toNat = 0x1000 + 4 * k → ∃ m : Memory,
      exec (.wr32 o d) s = .next { s with resp := .accepted, inBuf := m } ∧
      m.read (4 * k) = some (d.extractLsb' 24 8) ∧ m.read (4 * k + 1) = some (d.extractLsb' 16 8) ∧
      m.read (4 * k + 2) = some (d.extractLsb' 8 8) ∧ m.read (4 * k + 3) = some (d.extractLsb' 0 8) ∧
      ∀ a, (a < 4 * k ∨ 4 * k + 4 ≤ a) → m.read a = s.inBuf.read a) ∧
    (∀ k, 4 * k < s.bufBytes → o.toNat = 0x2000 + 4 * k → ∃ m : Memory,
      exec (.wr32 o d) s = .next { s with resp := .accepted, outBuf := m } ∧
      m.read (4 * k) = some (d.extractLsb' 24 8) ∧ m.read (4 * k + 1) = some (d.extractLsb' 16 8) ∧
      m.read (4 * k + 2) = some (d.extractLsb' 8 8) ∧ m.read (4 * k + 3) = some (d.extractLsb' 0 8) ∧
      ∀ a, (a < 4 * k ∨ 4 * k + 4 ≤ a) → m.read a = s.outBuf.read a) ∧
    (reservedOffset s.bufBytes o.toNat → exec (.wr32 o d) s = .next { s with resp := .accepted })

/-- R107: a CTRL write with START = 0 stores bits [31:1] and is a no-op on every other state (the port's answer `resp` is the
model's own field, notes/assumptions/9.md). -/
def Obligations.CtrlWriteWithoutStartOnlyStores : Prop :=
  ∀ (s : State) (d : Word), s.phase = .idle → d.getLsbD 0 = false →
    ∃ t, exec (.wr32 0x000#14 d) s = .next t ∧ { t with resp := s.resp } = { s with ctrl := d.extractLsb' 1 31 }

/-- R265: what a STATUS write does, that it clears the interrupt, that it changes nothing while DONE = 0, and that a step
clears DONE or ERR only by it, by a new START or by reset (the port's answer `resp` is the model's own field,
notes/assumptions/9.md). -/
def Obligations.AckIsTheOnlyClearBesideStartAndReset : Prop :=
  (∀ (s : State) (d : Word), s.phase = .idle →
    ∃ t, exec (.wr32 0x004#14 d) s = .next t ∧ { t with resp := s.resp } = { s with
      done := if d.getLsbD 1 then false else s.done
      err := if d.getLsbD 1 then 0#3 else s.err }) ∧
  (∀ (s t : State) (d : Word), s.phase = .idle → d.getLsbD 1 = true → exec (.wr32 0x004#14 d) s = .next t →
    t.irq = false ∧ (s.Inv → s.done = false → { t with resp := s.resp } = s)) ∧
  (∀ s t : State, s.Inv → step s = .next t → (s.done = true ∧ t.done = false) ∨ (s.err ≠ 0#3 ∧ t.err = 0#3) →
    ∃ input rest, s.inputs = input :: rest ∧
      (input = .reset ∨ ∃ i, input.instr = some i ∧ clearsStatus i = true))

/-- R82: a host read that follows a host write of a register or of a buffer word, with nothing between, returns the value
written. -/
def Obligations.ReadReturnsTheLatestWrite : Prop :=
  ∀ (s : State) (o : Offset) (d : Word), s.phase = .idle → offsetAligned o = true →
    (0x00C ≤ o.toNat ∧ o.toNat ≤ 0x014) ∨ (0x020 ≤ o.toNat ∧ o.toNat ≤ 0x037) ∨ (0x040 ≤ o.toNat ∧ o.toNat ≤ 0x047) ∨
      (0x1000 ≤ o.toNat ∧ o.toNat < 0x1000 + s.bufBytes) ∨ (0x2000 ≤ o.toNat ∧ o.toNat < 0x2000 + s.bufBytes) →
    ∃ t, exec (.wr32 o d) s = .next t ∧ exec (.rd32 o) t = .next { t with resp := .data d }

/-- R33, R77, R263: the frame of WR32. It always completes; it never changes the parameter, the inputs, the interleaving or the
count of completions; phase and the internal registers change only by a CTRL write that issues a command (IDLE, bit 0 = 1,
every check passed); each register, each KEY word and each IV word changes only by a write to its own offset; each buffer byte
only by a write to the word that holds it; DONE and ERR only by a CTRL or STATUS write; no register, no buffer byte and no
internal register by any write while BUSY; the fault set only by a write that is unaligned or meets BUSY. -/
def Obligations.WriteFrame : Prop :=
  ∀ (s : State) (o : Offset) (d : Word), ∃ t, exec (.wr32 o d) s = .next t ∧
    t.bufBlocks = s.bufBlocks ∧ t.inputs = s.inputs ∧ t.turns = s.turns ∧ t.freeCount = s.freeCount ∧
    ((o ≠ 0x000#14 ∨ s.phase = .busy ∨ d.getLsbD 0 = false ∨
      expectedCode d s.keyLen s.inLen s.outLen s.bufBytes ≠ 0#3) → t.phase = s.phase ∧ t.engine = s.engine) ∧
    (o ≠ 0x000#14 → t.ctrl = s.ctrl) ∧
    (o ≠ 0x000#14 → o ≠ 0x004#14 → t.done = s.done ∧ t.err = s.err) ∧
    (o ≠ 0x008#14 → t.ie = s.ie) ∧ (o ≠ 0x00C#14 → t.keyLen = s.keyLen) ∧ (o ≠ 0x010#14 → t.inLen = s.inLen) ∧
    (o ≠ 0x014#14 → t.outLen = s.outLen) ∧
    (o ≠ 0x020#14 → t.key.key0 = s.key.key0) ∧ (o ≠ 0x024#14 → t.key.key1 = s.key.key1) ∧
    (o ≠ 0x028#14 → t.key.key2 = s.key.key2) ∧ (o ≠ 0x02C#14 → t.key.key3 = s.key.key3) ∧
    (o ≠ 0x030#14 → t.key.key4 = s.key.key4) ∧ (o ≠ 0x034#14 → t.key.key5 = s.key.key5) ∧
    (o ≠ 0x040#14 → t.iv.iv0 = s.iv.iv0) ∧ (o ≠ 0x044#14 → t.iv.iv1 = s.iv.iv1) ∧
    (∀ a, (o.toNat ≠ 0x1000 + a / 4 * 4 ∨ s.bufBytes ≤ a) → t.inBuf.read a = s.inBuf.read a) ∧
    (∀ a, (o.toNat ≠ 0x2000 + a / 4 * 4 ∨ s.bufBytes ≤ a) → t.outBuf.read a = s.outBuf.read a) ∧
    (s.phase = .busy → { t with faults := s.faults, resp := s.resp } = s) ∧
    (o.toNat % 4 = 0 → s.phase = .idle → t.faults = s.faults)

/-! ## Refused and hazardous accesses -/

/-- R72, R260, R261: an access at an unaligned offset or of another width is refused in every phase: HostBusError recorded, a
bus error signalled, no data, no other change. While BUSY an access of another width fits R350 too: that it records
HostBusError alone is the model's choice (DEDUCED, notes/assumptions/6.md), and the host's move while BUSY is the model's own
(notes/assumptions/2.md). -/
def Obligations.UnalignedOrNarrowAccessIsRefused : Prop :=
  (∀ (s : State) (o : Offset) (d : Word), o.toNat % 4 ≠ 0 →
    exec (.rd32 o) s = .next { s with faults := { s.faults with hostBusError := true }, resp := .busError } ∧
    exec (.wr32 o d) s = .next { s with faults := { s.faults with hostBusError := true }, resp := .busError }) ∧
  (∀ (s : State) (width : OtherWidth) (rest : List Input), s.inputs = .narrow width :: rest →
    (s.phase = .idle →
      step s = .next { s with inputs := rest, faults := { s.faults with hostBusError := true }, resp := .busError }) ∧
    (∀ ts, s.phase = .busy → s.turns = .host :: ts → step s = .next { s with
      inputs := rest, turns := ts, faults := { s.faults with hostBusError := true }, resp := .busError }))

/-- R350: while BUSY = 1 every access but a read of STATUS is a hazard: HostHazard recorded and no effect, for reads (which
return no value), for writes of any offset and for each of the twelve commands; a read of STATUS records nothing. (The port's
answer `resp` to a write is the model's own field, notes/assumptions/9.md. An access that R72 refuses records HostBusError
instead: notes/assumptions/6.md.) -/
def Obligations.BusyHazard : Prop :=
  ∀ s : State, s.phase = .busy →
    (∀ (o : Offset) (d : Word), o.toNat % 4 = 0 → ∃ t, exec (.wr32 o d) s = .next t ∧
      { t with resp := s.resp } = { s with faults := { s.faults with hostHazard := true } }) ∧
    (∀ o : Offset, o.toNat % 4 = 0 → o ≠ 0x004#14 →
      exec (.rd32 o) s = .next { s with faults := { s.faults with hostHazard := true }, resp := .noValue }) ∧
    (∀ i c, i.command = some c → ∃ t, exec i s = .next t ∧
      { t with resp := s.resp } = { s with faults := { s.faults with hostHazard := true } }) ∧
    (∃ v, exec (.rd32 0x004#14) s = .next { s with resp := .data v } ∧ v.getLsbD 0 = true)

/-- R320: the set of recorded faults only grows, in every step that takes no reset. (That a reset empties it is R340, read over
R320: DEDUCED, notes/assumptions/12.md.) -/
def Obligations.FaultsOnlyGrow : Prop :=
  ∀ (s t : State) (f : Fault), step s = .next t → s.inputs.head? ≠ some .reset →
    s.faults.has f = true → t.faults.has f = true

/-- R320, R321, R72, R350, R48, R224: a fault is newly recorded only by the access that is its cause. HostHazard: while BUSY, on
the host's move, an aligned 32-bit access other than a read of STATUS. HostBusError: an unaligned access, or one of another
width. UninitRead: while IDLE, a host read of a buffer word that holds a byte with no mark; while BUSY, on the core's move, a
block step whose input block holds one. So no key, IV or data value is an error. (That an access of another width while BUSY
is no HostHazard is the model's choice: DEDUCED, notes/assumptions/6.md. Inputs and moves are the model's own:
notes/assumptions/2.md, 8.md.) -/
def Obligations.NewFaultsHaveTheirCauses : Prop :=
  ∀ s t : State, step s = .next t →
    (s.faults.hostHazard = false → t.faults.hostHazard = true →
      s.phase = .busy ∧ s.turns.head? = some .host ∧ ∃ input rest i, s.inputs = input :: rest ∧ input.instr = some i ∧
        i.wf = true ∧ i ≠ .rd32 0x004#14) ∧
    (s.faults.hostBusError = false → t.faults.hostBusError = true →
      ∃ input rest, s.inputs = input :: rest ∧
        ((∃ width, input = .narrow width) ∨
          ∃ o, o.toNat % 4 ≠ 0 ∧ (input.instr = some (.rd32 o) ∨ ∃ d, input.instr = some (.wr32 o d)))) ∧
    (s.faults.uninitRead = false → t.faults.uninitRead = true →
      (s.phase = .idle ∧ ∃ input rest o k a, s.inputs = input :: rest ∧ input.instr = some (.rd32 o) ∧
        4 * k ≤ a ∧ a < 4 * k + 4 ∧ a < s.bufBytes ∧
        ((o.toNat = 0x1000 + 4 * k ∧ s.inBuf.read a = none) ∨ (o.toNat = 0x2000 + 4 * k ∧ s.outBuf.read a = none))) ∨
      (s.CoreMoves ∧ s.engine.idx < s.engine.cmd.nblk ∧
        ∃ a, 8 * s.engine.idx ≤ a ∧ a < 8 * s.engine.idx + 8 ∧ s.inBuf.read a = none))

/-! ## START: validation, error completion, issue -/

/-- R222, in the order of R221: a START write in an IDLE core with a check that fails ends at once. The same write sets DONE
and the code of the first that fails, stores CTRL[31:1], and changes nothing else (the port's answer `resp` is the model's own
field, notes/assumptions/9.md). -/
def Obligations.FailedStartReportsTheFirstFailedCheck : Prop :=
  ∀ (s : State) (w : Word), s.phase = .idle → w.getLsbD 0 = true →
    expectedCode w s.keyLen s.inLen s.outLen s.bufBytes ≠ 0#3 →
    ∃ t, exec (.wr32 0x000#14 w) s = .next t ∧ { t with resp := s.resp } = { s with
      ctrl := w.extractLsb' 1 31
      done := true
      err := expectedCode w s.keyLen s.inLen s.outLen s.bufBytes }

/-- R103, R104, R110: each of the twelve commands is the CTRL write of its word of R104's table, in every state. -/
def Obligations.CommandIsTheWriteOfItsWord : Prop :=
  ∀ row ∈ commandTable, ∀ s : State, exec row.2.1 s = exec (.wr32 0x000#14 row.1) s ∧ row.2.1.command = some row.2.2

/-- R223: each of the twelve commands (DES, TDES2, TDES3; ECB, CBC; cipher, decipher), in an IDLE core whose lengths and
KEY_LEN pass the checks, is issued by that one write: the command latch, CH for CBC only, idx, DONE, ERR, BUSY (the port's
answer `resp` is the model's own field, notes/assumptions/9.md). -/
def Obligations.ValidCommandIsIssued : Prop :=
  ∀ (row : Word × Instr × Command) (s : State), row ∈ commandTable → s.Ready row.2.2 →
    ∃ t, exec row.2.1 s = .next t ∧ { t with resp := s.resp } = { s with
      ctrl := row.1.extractLsb' 1 31
      done := false
      err := 0#3
      phase := .busy
      engine := { s.engine with
        cmd := {
          dir := if row.1.getLsbD 1 then .dec else .enc
          mode := if row.1.getLsbD 4 then .cbc else .ecb
          n := s.inLen
          nblk := s.inLen.toNat / 8
          key := match row.2.2.cipher with
            | .des => .des (s.key.key0 ++ s.key.key1)
            | .tdes2 => .tdes2 (s.key.key0 ++ s.key.key1) (s.key.key2 ++ s.key.key3)
            | .tdes3 => .tdes3 (s.key.key0 ++ s.key.key1) (s.key.key2 ++ s.key.key3) (s.key.key4 ++ s.key.key5) }
        ch := if row.1.getLsbD 4 then s.iv.iv0 ++ s.iv.iv1 else s.engine.ch
        idx := 0 } }

/-! ## The block sequencer -/

/-- R227, with R224, R225, R226: one ECB step writes T of the input block to the same block of OUT_BUF, sets its marks and
advances idx; CH, the command latch and every other state stay (the datapath registers are unspecified to the host). -/
def Obligations.EcbStepComputesItsBlock : Prop :=
  ∀ (s : State) (x : Block), s.CoreMoves → s.engine.cmd.mode = .ecb → s.engine.idx < s.engine.cmd.nblk →
    s.inBuf.readBlock (8 * s.engine.idx) = some x →
    ∃ t, step s = .next t ∧
      t.outBuf.readBlock (8 * s.engine.idx) = some (s.engine.cmd.key.apply s.engine.cmd.dir x) ∧
      (∀ a, (a < 8 * s.engine.idx ∨ 8 * s.engine.idx + 8 ≤ a) → t.outBuf.read a = s.outBuf.read a) ∧
      t.engine.idx = s.engine.idx + 1 ∧ t.engine.cmd = s.engine.cmd ∧ t.engine.ch = s.engine.ch ∧
      { t with outBuf := s.outBuf, engine := s.engine, turns := s.turns } = s

/-- R228, with R224, R225, R226: one CBC step. Cipher: y = T.cipher(x xor CH), CH becomes y. Decipher: y = T.decipher(x)
xor CH, CH becomes x. The block is written and marked, idx advances, every other state stays. -/
def Obligations.CbcStepComputesItsBlock : Prop :=
  ∀ (s : State) (x : Block), s.CoreMoves → s.engine.cmd.mode = .cbc → s.engine.idx < s.engine.cmd.nblk →
    s.inBuf.readBlock (8 * s.engine.idx) = some x →
    ∃ t y, step s = .next t ∧
      (s.engine.cmd.dir = .enc → y = s.engine.cmd.key.enc (x ^^^ s.engine.ch) ∧ t.engine.ch = y) ∧
      (s.engine.cmd.dir = .dec → y = s.engine.cmd.key.dec x ^^^ s.engine.ch ∧ t.engine.ch = x) ∧
      t.outBuf.readBlock (8 * s.engine.idx) = some y ∧
      (∀ a, (a < 8 * s.engine.idx ∨ 8 * s.engine.idx + 8 ≤ a) → t.outBuf.read a = s.outBuf.read a) ∧
      t.engine.idx = s.engine.idx + 1 ∧ t.engine.cmd = s.engine.cmd ∧
      { t with outBuf := s.outBuf, engine := s.engine, turns := s.turns } = s

/-- R224: a block step that meets an input byte with no mark records UninitRead and stops there. That "stop" leaves everything
else as it was, so that the core stays BUSY at the same block, is the model's reading (DEDUCED, notes/assumptions/5.md). -/
def Obligations.BlockStepStopsAtUnmarkedByte : Prop :=
  ∀ (s : State) (j : Nat), s.CoreMoves → s.engine.idx < s.engine.cmd.nblk → j < 8 →
    s.inBuf.read (8 * s.engine.idx + j) = none →
    ∃ t, step s = .next t ∧ t.faults = { s.faults with uninitRead := true } ∧
      { t with faults := s.faults, turns := s.turns } = s

/-- R229, R303: the completion step. The internal registers after it are a free value (notes/assumptions/4.md): the statement
says nothing of them. -/
def Obligations.CompletionStep : Prop :=
  ∀ s : State, s.CoreMoves → s.engine.idx = s.engine.cmd.nblk →
    ∃ t, step s = .next t ∧ t.phase = .idle ∧ t.done = true ∧ t.err = 0#3 ∧ t.irq = s.ie ∧
      { t with phase := s.phase, done := s.done, err := s.err, engine := s.engine, freeCount := s.freeCount,
               turns := s.turns } = s

/-- R352, R230: a BUSY core whose remaining input blocks carry their marks, with a host that only reads STATUS, completes
under every interleaving (the model's own field `turns`, notes/assumptions/2.md) within a bounded number of steps; it has then
written exactly the remaining output blocks of the
chaining mode and recorded no fault. -/
def Obligations.BusyCommandCompletesUnderEveryInterleaving : Prop :=
  ∀ (s : State) (xs : List Block), s.Inv → s.phase = .busy → s.inputs.all Input.readsStatus = true →
    s.inBuf.readBlocks (8 * s.engine.idx) (s.engine.cmd.nblk - s.engine.idx) = some xs →
    ∃ k t, k ≤ s.turns.length + (s.engine.cmd.nblk - s.engine.idx) + 1 ∧ Host.Core.run core k s = .next t ∧
      t.phase = .idle ∧ t.done = true ∧ t.err = 0#3 ∧ t.faults = s.faults ∧
      t.outBuf.readBlocks (8 * s.engine.idx) (s.engine.cmd.nblk - s.engine.idx) =
        some (chainBlocks s.engine.cmd.key.enc s.engine.cmd.key.dec s.engine.cmd.mode s.engine.cmd.dir s.engine.ch xs) ∧
      (∀ a, (a < 8 * s.engine.idx ∨ 8 * s.engine.cmd.nblk ≤ a) → t.outBuf.read a = s.outBuf.read a)

/-- R230: the whole command, each of the twelve, as the function Run. With a failing check: its code, and OUT_BUF unchanged.
With none: the write issues it, IN_LEN / 8 + 1 core steps complete it, OUT_BUF then holds the output blocks of Run, and
nothing else of the host-visible state has changed but CTRL, STATUS and the port's answer. -/
def Obligations.CommandRunsAsTheRunFunction : Prop :=
  ∀ (row : Word × Instr × Command) (s : State), row ∈ commandTable → s.phase = .idle → s.inputs = [] →
    (expectedCode row.1 s.keyLen s.inLen s.outLen s.bufBytes ≠ 0#3 →
      ∃ t, exec row.2.1 s = .next t ∧ t.phase = .idle ∧
        t.err = expectedCode row.1 s.keyLen s.inLen s.outLen s.bufBytes ∧ t.outBuf = s.outBuf) ∧
    (∀ xs, expectedCode row.1 s.keyLen s.inLen s.outLen s.bufBytes = 0#3 →
      s.inBuf.readBlocks 0 (s.inLen.toNat / 8) = some xs →
      ∃ t u, exec row.2.1 s = .next t ∧ t.phase = .busy ∧ Host.Core.run core (s.inLen.toNat / 8 + 1) t = .next u ∧
        u.outBuf.readBlocks 0 (s.inLen.toNat / 8) = some (runBlocks row.2.2 s.key s.iv xs) ∧
        (∀ a, s.inLen.toNat ≤ a → u.outBuf.read a = s.outBuf.read a) ∧
        u.phase = .idle ∧ u.done = true ∧ u.err = 0#3 ∧
        { u with ctrl := s.ctrl, done := s.done, err := s.err, resp := s.resp, outBuf := s.outBuf,
                 engine := s.engine, freeCount := s.freeCount } = s)

/-- R233: no command, successful or not, writes KEY, IV, KEY_LEN, IN_LEN, OUT_LEN, IRQ_EN, an IN_BUF byte, or an OUT_BUF byte
at an index of `cmd.n` or above: not in the write that issues it, not in any step of the core after it. -/
def Obligations.CommandsWriteNoOperand : Prop :=
  (∀ (i : Instr) (c : Command) (s t : State), i.command = some c → exec i s = .next t →
    t.key = s.key ∧ t.iv = s.iv ∧ t.keyLen = s.keyLen ∧ t.inLen = s.inLen ∧ t.outLen = s.outLen ∧ t.ie = s.ie ∧
      t.inBuf = s.inBuf ∧ t.outBuf = s.outBuf) ∧
  (∀ s t : State, s.Inv → s.CoreMoves → step s = .next t →
    t.key = s.key ∧ t.iv = s.iv ∧ t.keyLen = s.keyLen ∧ t.inLen = s.inLen ∧ t.outLen = s.outLen ∧ t.ie = s.ie ∧
      t.inBuf = s.inBuf ∧ ∀ a, s.engine.cmd.n.toNat ≤ a → t.outBuf.read a = s.outBuf.read a)

/-! ## Reset and the interrupt -/

/-- R340: State.reset has the values the spec states for reset, and so has the reset state of every capacity. -/
def Obligations.ResetLeavesTheStatedValues : Prop :=
  State.reset.HasResetValues ∧ ∀ b : Fin 512, (State.resetWith b).HasResetValues

/-- R340, R341: a reset, also one while BUSY, abandons the command: DONE stays 0, no interrupt, every register at its reset
value, every buffer byte without a mark. That it also empties the set of recorded faults is the model's reading of R340 over
R320 (DEDUCED, notes/assumptions/12.md), and so is that the capacity, a parameter, stays; the platform's move while BUSY is the
model's own (notes/assumptions/2.md). -/
def Obligations.ResetAbandonsTheCommand : Prop :=
  ∀ (s : State) (rest : List Input), s.inputs = .reset :: rest →
    (s.phase = .idle ∨ s.turns.head? = some .host) →
    ∃ t, step s = .next t ∧ t.HasResetValues ∧ t.bufBlocks = s.bufBlocks

/-- R310: IRQ over the accesses that move it: a failed START raises it exactly when IE = 1; writing IE masks or unmasks it
without touching DONE; a valid START lowers it. -/
def Obligations.IrqIsDoneAndEnabled : Prop :=
  ∀ (s t : State), s.phase = .idle →
    (∀ w : Word, w.getLsbD 0 = true → expectedCode w s.keyLen s.inLen s.outLen s.bufBytes ≠ 0#3 →
      exec (.wr32 0x000#14 w) s = .next t → t.irq = s.ie) ∧
    (∀ w : Word, w.getLsbD 0 = true → expectedCode w s.keyLen s.inLen s.outLen s.bufBytes = 0#3 →
      exec (.wr32 0x000#14 w) s = .next t → t.irq = false) ∧
    (∀ d : Word, exec (.wr32 0x008#14 d) s = .next t → t.irq = (s.done && d.getLsbD 0) ∧ t.done = s.done)

/-! ## Whole-machine rules -/

/-- The invariant holds at reset, for every capacity (R35, R48, R340). -/
def Obligations.ResetHasTheInvariant : Prop := ∀ b : Fin 512, (State.resetWith b).Inv

/-- R35, R41, R45, R79, R300: every step keeps the invariant, and none changes the parameter BUF_BYTES. -/
def Obligations.EveryStepKeepsTheInvariant : Prop :=
  ∀ s t : State, s.Inv → step s = .next t → t.Inv ∧ t.bufBlocks = s.bufBlocks

/-- R229, R340: no rule reads an internal register before a START writes it. Two IDLE cores that differ in internal registers
only answer alike and stay alike, for every number of steps. -/
def Obligations.InternalRegistersAreUnobservable : Prop :=
  ∀ (s : State) (e : Engine) (k : Nat), s.phase = .idle →
    forgetOutcome (Host.Core.run core k { s with engine := e }) = forgetOutcome (Host.Core.run core k s)

/-! ## The DES engine -/

/-- R143: IP⁻¹ is the inverse of IP, on both sides. -/
def Obligations.FinalPermutationInvertsInitial : Prop :=
  ∀ v : Block, perm 64 tableIPinv (perm 64 tableIP v) = v ∧ perm 64 tableIP (perm 64 tableIPinv v) = v

/-- R169: DES decryption inverts DES encryption under every key, and the other way round. -/
def Obligations.DesDecryptionInvertsEncryption : Prop :=
  ∀ key b : Block, desDec key (desEnc key b) = b ∧ desEnc key (desDec key b) = b

/-- R154: the schedule does not depend on key bits 8, 16, ..., 64 (bit 0 of each key byte): keys that agree on the other 56
bits have the same schedule, of 16 subkeys, and give the same output for every block. -/
def Obligations.ParityBitsDoNotMatter : Prop :=
  ∀ k k' : Block, k &&& 0xFEFEFEFEFEFEFEFE#64 = k' &&& 0xFEFEFEFEFEFEFEFE#64 →
    keySchedule k = keySchedule k' ∧ (keySchedule k).length = 16 ∧
      ∀ b, desEnc k b = desEnc k' b ∧ desDec k b = desDec k' b

/-- R175: the complementation property. -/
def Obligations.DesComplementation : Prop := ∀ k b : Block, desEnc (~~~k) (~~~b) = ~~~(desEnc k b)

/-- R155, R172, R173: a pass of the round datapath gives DES of its input, in both directions; after its sixteen rounds the
key-schedule halves are C0 and D0 again. -/
def Obligations.DatapathPassIsDes : Prop :=
  ∀ key v : Block,
    passResult (passRun .enc key v) = desEnc key v ∧ passResult (passRun .dec key v) = desDec key v ∧
    ∀ dir : Dir, (passRun dir key v).rnd.val = 16 ∧ (passRun dir key v).c = keyC0 key ∧ (passRun dir key v).d = keyD0 key

/-- R203, R43, R44: the stage sequencer and the datapath compute T of the latched key, and change no other engine register. -/
def Obligations.StageSequencerComputesTheCipher : Prop :=
  ∀ (dir : Dir) (b : Block) (e : Engine),
    (runCipher dir b e).2 = e.cmd.key.apply dir b ∧ (runCipher dir b e).1.cmd = e.cmd ∧
    (runCipher dir b e).1.idx = e.idx ∧ (runCipher dir b e).1.ch = e.ch ∧
    (e.cmd.key.cipher = .des → (runCipher dir b e).1.stg = e.stg ∧ (runCipher dir b e).1.x = e.x)

/-- R204, R205, R206, R207: Triple-DES decipher inverts cipher for both variants, and degenerate keys collapse as stated. -/
def Obligations.TripleDesInvertsAndCollapses : Prop :=
  ∀ k1 k2 k3 b : Block,
    tdes2Dec k1 k2 (tdes2Enc k1 k2 b) = b ∧ tdes3Dec k1 k2 k3 (tdes3Enc k1 k2 k3 b) = b ∧
    tdes2Enc k1 k1 b = desEnc k1 b ∧ tdes3Enc k1 k2 k1 b = tdes2Enc k1 k2 b ∧
    tdes3Enc k1 k1 k3 b = desEnc k3 b ∧ tdes3Enc k1 k2 k2 b = desEnc k1 b

/-- R168, R204, R206, R246: the spec's worked examples, DES, TDES2, TDES3 and two blocks of CBC. -/
def Obligations.KnownAnswers : Prop :=
  desEnc 0x133457799BBCDFF1#64 0x0123456789ABCDEF#64 = 0x85E813540F0AB405#64 ∧
  tdes2Enc 0x0123456789ABCDEF#64 0x23456789ABCDEF01#64 0x6BC1BEE22E409F96#64 = 0x06EDE3D82884090A#64 ∧
  tdes3Enc 0x0123456789ABCDEF#64 0x23456789ABCDEF01#64 0x456789ABCDEF0123#64 0x6BC1BEE22E409F96#64 =
    0x714772F339841D34#64 ∧
  chainBlocks (desEnc 0x0123456789ABCDEF#64) (desDec 0x0123456789ABCDEF#64) .cbc .enc 0x1234567890ABCDEF#64
    [0x4E6F772069732074#64, 0x68652074696D6520#64] = [0xE5C7CDDE872BF27C#64, 0x43E934008C389C0F#64]

/-! ## Chaining modes as functions -/

/-- R234: a decipher command on the output of the cipher command, with the same cipher, mode, key and IV, gives back the input
blocks. -/
def Obligations.DecipherInvertsCipher : Prop :=
  ∀ (mode : Mode) (T : Cipher) (key : KeyStore) (iv : IvStore) (xs : List Block),
    runBlocks ⟨mode, T, .dec⟩ key iv (runBlocks ⟨mode, T, .enc⟩ key iv xs) = xs

/-- R235: change one input block of a cipher command. ECB: the output changes in that block and no other. CBC: every output
block from it on changes, none before it does. -/
def Obligations.DiffusionOfOneChangedBlock : Prop :=
  ∀ (T : Cipher) (key : KeyStore) (iv : IvStore) (xs : List Block) (i : Nat) (x : Block),
    i < xs.length → xs[i]? ≠ some x →
    (∀ j, j < xs.length →
      ((runBlocks ⟨.ecb, T, .enc⟩ key iv (xs.set i x))[j]? ≠ (runBlocks ⟨.ecb, T, .enc⟩ key iv xs)[j]? ↔ j = i)) ∧
    (∀ j, j < xs.length →
      ((runBlocks ⟨.cbc, T, .enc⟩ key iv (xs.set i x))[j]? ≠ (runBlocks ⟨.cbc, T, .enc⟩ key iv xs)[j]? ↔ i ≤ j))

/-- R247: each CBC decipher output depends only on its own input block and the one before it, so one changed input block
changes at most two output blocks. -/
def Obligations.CbcDecipherErrorSpansTwoBlocks : Prop :=
  ∀ (T : Cipher) (key : KeyStore) (iv : IvStore) (xs : List Block) (i j : Nat) (x : Block),
    j ≠ i → j ≠ i + 1 →
    (runBlocks ⟨.cbc, T, .dec⟩ key iv (xs.set i x))[j]? = (runBlocks ⟨.cbc, T, .dec⟩ key iv xs)[j]?

/-- R240 to R245: an ECB command applies DES, TDES2 or TDES3 to each block on its own. -/
def Obligations.EcbMapsTheCipherOverBlocks : Prop :=
  ∀ (key : KeyStore) (iv : IvStore) (xs : List Block),
    runBlocks ⟨.ecb, .des, .enc⟩ key iv xs = xs.map (desEnc (key.key0 ++ key.key1)) ∧
    runBlocks ⟨.ecb, .des, .dec⟩ key iv xs = xs.map (desDec (key.key0 ++ key.key1)) ∧
    runBlocks ⟨.ecb, .tdes2, .enc⟩ key iv xs = xs.map (tdes2Enc (key.key0 ++ key.key1) (key.key2 ++ key.key3)) ∧
    runBlocks ⟨.ecb, .tdes2, .dec⟩ key iv xs = xs.map (tdes2Dec (key.key0 ++ key.key1) (key.key2 ++ key.key3)) ∧
    runBlocks ⟨.ecb, .tdes3, .enc⟩ key iv xs =
      xs.map (tdes3Enc (key.key0 ++ key.key1) (key.key2 ++ key.key3) (key.key4 ++ key.key5)) ∧
    runBlocks ⟨.ecb, .tdes3, .dec⟩ key iv xs =
      xs.map (tdes3Dec (key.key0 ++ key.key1) (key.key2 ++ key.key3) (key.key4 ++ key.key5))
end

