-- ==== Sys2Proof/Laws/Bits.lean ====
section
/-! SUPPORT. What a selection table does to each bit (R141), and the round trip of big-endian bytes. -/

namespace Sys2Proof.Machine

theorem foldl_shiftConcat_getLsbD {m : Nat} (f : Nat → Bool) (table : List Nat) : ∀ (u : BitVec m) (i : Nat), i < m →
    (table.foldl (fun u j => u.shiftConcat (f j)) u).getLsbD i =
      if i < table.length then f (table.getD (table.length - 1 - i) 0) else u.getLsbD (i - table.length) := by
  induction table with
  | nil => intro u i _; simp
  | cons j rest ih =>
    intro u i hi
    simp only [List.foldl_cons, List.length_cons]
    rw [ih _ _ hi]
    by_cases h : i < rest.length
    · have hk : rest.length + 1 - 1 - i = (rest.length - 1 - i) + 1 := by omega
      simp only [h, if_true, show i < rest.length + 1 by omega, hk]
      rfl
    · simp only [h, if_false]
      by_cases h2 : i = rest.length
      · subst h2
        simp [BitVec.getLsbD_shiftConcat]
        omega
      · have hge : ¬ i < rest.length + 1 := by omega
        simp only [hge, if_false]
        rw [BitVec.getLsbD_shiftConcat]
        have h0 : ¬ i - rest.length = 0 := by omega
        simp only [h0, if_false]
        have : i - rest.length < m := by omega
        simp [this]
        congr 1
        

/-- `Perm`: DES bit `i` of the result is DES bit `T[i]` of the input, for a table of `m` entries (R141). -/
theorem bitD_perm {n m : Nat} (table : List Nat) (v : BitVec n) (hm : table.length = m) (i : Nat)
    (h1 : 1 ≤ i) (h2 : i ≤ m) : bitD (perm m table v) i = bitD v (table.getD (i - 1) 0) := by
  show (table.foldl (fun u j => u.shiftConcat (bitD v j)) 0#m).getLsbD (m - i) = _
  rw [foldl_shiftConcat_getLsbD (fun j => bitD v j) table _ _ (by omega), if_pos (by omega)]
  congr 2
  omega

/-- Two values with the same DES bits are equal. -/
theorem eq_of_bitD {n : Nat} (u v : BitVec n) (h : ∀ i, 1 ≤ i → i ≤ n → bitD u i = bitD v i) : u = v := by
  apply BitVec.eq_of_getLsbD_eq
  intro i hi
  have := h (n - i) (by omega) (by omega)
  unfold bitD at this
  rwa [show n - (n - i) = i by omega] at this

theorem length_bytesBE {n : Nat} (v : BitVec n) (k : Nat) : (bytesBE v k).length = k := by
  induction k with
  | zero => rfl
  | succ k ih => simp [bytesBE, ih]

theorem foldl_bytesBE_toNat {n : Nat} (v : BitVec n) (k : Nat) (hk : 8 * k ≤ n) (acc : BitVec n) :
    (bytesBE v k).foldl (fun (u : BitVec n) (b : Byte) => (u <<< 8) ||| b.setWidth n) acc =
      (acc <<< (8 * k)) ||| (v.extractLsb' 0 (8 * k)).setWidth n := by
  induction k generalizing acc with
  | zero =>
    ext i hi
    simp [bytesBE]
  | succ k ih =>
    simp only [bytesBE, List.foldl_cons]
    rw [ih (by omega)]
    ext i hi
    simp only [BitVec.getElem_or, BitVec.getElem_shiftLeft, BitVec.getElem_setWidth, BitVec.getLsbD_extractLsb',
      Nat.zero_add]
    by_cases h1 : i < 8 * k
    · simp [h1, show i < 8 * (k + 1) by omega]
    · by_cases h2 : i < 8 * (k + 1)
      · simp [h1, h2, show i - 8 * k < 8 by omega, show 8 * k + (i - 8 * k) = i by omega]
      · simp [h1, h2, show ¬ i - 8 * k < 8 by omega, show i - 8 * k - 8 = i - 8 * (k + 1) by omega]

/-- The bytes of a value give the value back (R11). -/
theorem valueBE_bytesBE {n : Nat} (v : BitVec n) (k : Nat) (hk : 8 * k = n) : valueBE n (bytesBE v k) = v := by
  unfold valueBE
  rw [foldl_bytesBE_toNat v k (by omega)]
  ext i hi
  simp [hk, hi]

end Sys2Proof.Machine
end

