-- ==== Sys2Proof/Laws/Memory.lean ====
section
/-! SUPPORT. The laws of the buffers: a read after a write, the canonical form and the capacity kept by every write. -/

namespace Sys2Proof.Machine

@[simp] theorem Memory.read_nil (a : Nat) : Memory.read [] a = none := rfl

theorem Memory.read_write_same (m : Memory) (a : Nat) (v : Byte) : (m.write a v).read a = some v := by
  induction m with
  | nil => simp [Memory.write, Memory.read]
  | cons c rest ih =>
    obtain ⟨k, b⟩ := c
    unfold Memory.write
    split
    · simp [Memory.read]
    · split
      · simp [Memory.read]
      · next h1 h2 =>
        have : k ≠ a := fun h => h2 h.symm
        simp [Memory.read, this, ih]

theorem Memory.read_write_other (m : Memory) {a b : Nat} (v : Byte) (h : b ≠ a) :
    (m.write a v).read b = m.read b := by
  induction m with
  | nil => simp [Memory.write, Memory.read, h.symm]
  | cons c rest ih =>
    obtain ⟨k, w⟩ := c
    unfold Memory.write
    split
    · simp [Memory.read, h.symm]
    · split
      · next h1 h2 => subst h2; simp [Memory.read, h.symm]
      · simp [Memory.read, ih]

/-- What a byte reads as after a write of a byte. -/
theorem Memory.read_write (m : Memory) (a b : Nat) (v : Byte) :
    (m.write a v).read b = if b = a then some v else m.read b := by
  split
  · next h => subst h; exact Memory.read_write_same m _ v
  · next h => exact Memory.read_write_other m v h

theorem Memory.all_write (p : Host.Cell → Bool) (m : Memory) (a : Nat) (v : Byte)
    (hm : m.all p = true) (hp : p (a, v) = true) : (m.write a v).all p = true := by
  induction m with
  | nil => simp [Memory.write, hp]
  | cons c rest ih =>
    obtain ⟨k, b⟩ := c
    simp only [List.all_cons, Bool.and_eq_true] at hm
    unfold Memory.write
    split
    · simp only [List.all_cons, hp, hm.1, hm.2, Bool.and_self]
    · split
      · simp only [List.all_cons, hp, hm.2, Bool.and_self]
      · simp only [List.all_cons, hm.1, ih hm.2, Bool.and_self]

/-- A write keeps the canonical form. -/
theorem Memory.write_wf (m : Memory) (a : Nat) (v : Byte) (h : m.wf = true) : (m.write a v).wf = true := by
  induction m with
  | nil => rfl
  | cons c rest ih =>
    obtain ⟨k, b⟩ := c
    simp only [Memory.wf, Bool.and_eq_true] at h
    unfold Memory.write
    split
    · next hlt =>
      simp only [Memory.wf, List.all_cons, Bool.and_eq_true, decide_eq_true_eq]
      refine ⟨⟨hlt, ?_⟩, h.1, h.2⟩
      rw [List.all_eq_true] at *
      intro x hx
      have := h.1 x hx
      simp only [decide_eq_true_eq] at *
      omega
    · split
      · next heq => subst heq; simpa only [Memory.wf, Bool.and_eq_true] using h
      · next h1 h2 =>
        simp only [Memory.wf, Bool.and_eq_true]
        exact ⟨Memory.all_write _ rest a v h.1 (by simp only [decide_eq_true_eq]; omega), ih h.2⟩

/-- A write below the capacity keeps every index below it. -/
theorem Memory.write_below (m : Memory) (bound a : Nat) (v : Byte) (h : m.below bound = true) (ha : a < bound) :
    (m.write a v).below bound = true :=
  Memory.all_write _ m a v h (by simpa using ha)

theorem Memory.writeWord_wf (m : Memory) (a : Nat) (w : Word) (h : m.wf = true) : (m.writeWord a w).wf = true :=
  Memory.write_wf _ _ _ (Memory.write_wf _ _ _ (Memory.write_wf _ _ _ (Memory.write_wf _ _ _ h)))

theorem Memory.writeWord_below (m : Memory) (bound a : Nat) (w : Word) (h : m.below bound = true)
    (ha : a + 4 ≤ bound) : (m.writeWord a w).below bound = true := by
  unfold Memory.writeWord
  refine Memory.write_below _ _ _ _ (Memory.write_below _ _ _ _ (Memory.write_below _ _ _ _
    (Memory.write_below _ _ _ _ h ?_) ?_) ?_) ?_ <;> omega

theorem Memory.writeBlock_wf (m : Memory) (a : Nat) (v : Block) (h : m.wf = true) : (m.writeBlock a v).wf = true :=
  Memory.writeWord_wf _ _ _ (Memory.writeWord_wf _ _ _ h)

theorem Memory.writeBlock_below (m : Memory) (bound a : Nat) (v : Block) (h : m.below bound = true)
    (ha : a + 8 ≤ bound) : (m.writeBlock a v).below bound = true :=
  Memory.writeWord_below _ _ _ _ (Memory.writeWord_below _ _ _ _ h (by omega)) (by omega)

theorem Memory.writeBlocks_wf (vs : List Block) : ∀ (m : Memory) (a : Nat), m.wf = true →
    (m.writeBlocks a vs).wf = true := by
  induction vs with
  | nil => exact fun _ _ h => h
  | cons v vs ih => exact fun m a h => ih _ _ (Memory.writeBlock_wf m a v h)

/-- What a byte reads as after a write of a word: its bytes at `a` to `a + 3`, the rest as before (R73). -/
theorem Memory.read_writeWord (m : Memory) (a b : Nat) (w : Word) :
    (m.writeWord a w).read b =
      if a ≤ b ∧ b < a + 4 then some (wordByte w (b - a)) else m.read b := by
  unfold Memory.writeWord
  simp only [Memory.read_write]
  by_cases h3 : b = a + 3
  · subst h3; simp
  by_cases h2 : b = a + 2
  · subst h2; simp
  by_cases h1 : b = a + 1
  · subst h1; simp
  by_cases h0 : b = a
  · subst h0; simp
  have : ¬(a ≤ b ∧ b < a + 4) := by omega
  simp [h3, h2, h1, h0, this]

theorem Memory.read_writeWord_other (m : Memory) {a b : Nat} (w : Word) (h : b < a ∨ a + 4 ≤ b) :
    (m.writeWord a w).read b = m.read b := by
  rw [Memory.read_writeWord, if_neg (by omega)]

/-- A block write changes bytes `a` to `a + 7` only (R80, R226). -/
theorem Memory.read_writeBlock_other (m : Memory) {a b : Nat} (v : Block) (h : b < a ∨ a + 8 ≤ b) :
    (m.writeBlock a v).read b = m.read b := by
  unfold Memory.writeBlock
  rw [Memory.read_writeWord_other _ _ (by omega), Memory.read_writeWord_other _ _ (by omega)]

theorem wordOfBytes_wordByte (w : Word) :
    wordOfBytes (wordByte w 0) (wordByte w 1) (wordByte w 2) (wordByte w 3) = w := by
  unfold wordOfBytes wordByte
  ext i hi
  simp only [BitVec.getElem_append, BitVec.getElem_extractLsb']
  split
  · simp [BitVec.getLsbD_eq_getElem, hi]
  · split
    · rw [BitVec.getLsbD_eq_getElem (by omega)]; congr 1; omega
    · split
      · rw [BitVec.getLsbD_eq_getElem (by omega)]; congr 1; omega
      · rw [BitVec.getLsbD_eq_getElem (by omega)]; congr 1; omega

theorem blockOfWords_hi_lo (v : Block) : blockOfWords (blockHi v) (blockLo v) = v := by
  unfold blockOfWords blockHi blockLo
  ext i hi
  simp only [BitVec.getElem_append, BitVec.getElem_extractLsb']
  split
  · simp [BitVec.getLsbD_eq_getElem, hi]
  · rw [BitVec.getLsbD_eq_getElem (by omega)]; congr 1; omega

/-- A word reads back as it was written (R73, R82). -/
theorem Memory.readWord_writeWord (m : Memory) (a : Nat) (w : Word) : (m.writeWord a w).readWord a = some w := by
  simp [Memory.readWord, Memory.read_writeWord, wordOfBytes_wordByte]

theorem Memory.readWord_writeWord_other (m : Memory) {a b : Nat} (w : Word) (h : b + 4 ≤ a ∨ a + 4 ≤ b) :
    (m.writeWord a w).readWord b = m.readWord b := by
  unfold Memory.readWord
  rw [Memory.read_writeWord_other _ _ (by omega), Memory.read_writeWord_other _ _ (by omega),
    Memory.read_writeWord_other _ _ (by omega), Memory.read_writeWord_other _ _ (by omega)]

/-- A word with no value holds a byte with no mark. -/
theorem Memory.readWord_none {m : Memory} {a : Nat} (h : m.readWord a = none) :
    ∃ b, a ≤ b ∧ b < a + 4 ∧ m.read b = none := by
  cases h0 : m.read a with
  | none => exact ⟨a, by omega, by omega, h0⟩
  | some _ =>
    cases h1 : m.read (a + 1) with
    | none => exact ⟨a + 1, by omega, by omega, h1⟩
    | some _ =>
      cases h2 : m.read (a + 2) with
      | none => exact ⟨a + 2, by omega, by omega, h2⟩
      | some _ =>
        cases h3 : m.read (a + 3) with
        | none => exact ⟨a + 3, by omega, by omega, h3⟩
        | some _ => simp [Memory.readWord, h0, h1, h2, h3] at h

/-- A block with no value holds a byte with no mark. -/
theorem Memory.readBlock_none {m : Memory} {a : Nat} (h : m.readBlock a = none) :
    ∃ b, a ≤ b ∧ b < a + 8 ∧ m.read b = none := by
  cases h0 : m.readWord a with
  | none => obtain ⟨b, h1, h2, h3⟩ := Memory.readWord_none h0; exact ⟨b, h1, by omega, h3⟩
  | some _ =>
    cases h1 : m.readWord (a + 4) with
    | none => obtain ⟨b, h2, h3, h4⟩ := Memory.readWord_none h1; exact ⟨b, by omega, by omega, h4⟩
    | some _ => simp [Memory.readBlock, h0, h1] at h

/-- A block reads back as it was written (R74, R75, R80). -/
theorem Memory.readBlock_writeBlock (m : Memory) (a : Nat) (v : Block) : (m.writeBlock a v).readBlock a = some v := by
  unfold Memory.readBlock Memory.writeBlock
  rw [Memory.readWord_writeWord_other _ _ (by omega), Memory.readWord_writeWord, Memory.readWord_writeWord]
  simp [blockOfWords_hi_lo]

theorem Memory.readBlock_writeBlock_other (m : Memory) {a b : Nat} (v : Block) (h : b + 8 ≤ a ∨ a + 8 ≤ b) :
    (m.writeBlock a v).readBlock b = m.readBlock b := by
  unfold Memory.readBlock Memory.writeBlock
  rw [Memory.readWord_writeWord_other _ _ (by omega), Memory.readWord_writeWord_other _ _ (by omega),
    Memory.readWord_writeWord_other _ _ (by omega), Memory.readWord_writeWord_other _ _ (by omega)]

/-- Blocks written in a row change the bytes they cover only (R226, R233). -/
theorem Memory.read_writeBlocks_other (vs : List Block) : ∀ (m : Memory) (a : Nat) {b : Nat},
    (b < a ∨ a + 8 * vs.length ≤ b) → (m.writeBlocks a vs).read b = m.read b := by
  induction vs with
  | nil => exact fun _ _ _ _ => rfl
  | cons v vs ih =>
    intro m a b h
    simp only [List.length_cons] at h
    simp only [Memory.writeBlocks]
    rw [ih _ _ (by omega), Memory.read_writeBlock_other _ _ (by omega)]

end Sys2Proof.Machine
end

