-- ==== Sys2Proof/Laws/State.lean ====
section
/-! SUPPORT. What each named update of the state does to each field: one lemma for each field of each update. -/

namespace Sys2Proof.Machine

variable (s : State)

@[simp] theorem State.refuseAccess_bufBlocks : s.refuseAccess.bufBlocks = s.bufBlocks := rfl
@[simp] theorem State.refuseAccess_ctrl : s.refuseAccess.ctrl = s.ctrl := rfl
@[simp] theorem State.refuseAccess_done : s.refuseAccess.done = s.done := rfl
@[simp] theorem State.refuseAccess_err : s.refuseAccess.err = s.err := rfl
@[simp] theorem State.refuseAccess_ie : s.refuseAccess.ie = s.ie := rfl
@[simp] theorem State.refuseAccess_keyLen : s.refuseAccess.keyLen = s.keyLen := rfl
@[simp] theorem State.refuseAccess_inLen : s.refuseAccess.inLen = s.inLen := rfl
@[simp] theorem State.refuseAccess_outLen : s.refuseAccess.outLen = s.outLen := rfl
@[simp] theorem State.refuseAccess_key : s.refuseAccess.key = s.key := rfl
@[simp] theorem State.refuseAccess_iv : s.refuseAccess.iv = s.iv := rfl
@[simp] theorem State.refuseAccess_inBuf : s.refuseAccess.inBuf = s.inBuf := rfl
@[simp] theorem State.refuseAccess_outBuf : s.refuseAccess.outBuf = s.outBuf := rfl
@[simp] theorem State.refuseAccess_faults : s.refuseAccess.faults = s.faults.record .hostBusError := rfl
@[simp] theorem State.refuseAccess_phase : s.refuseAccess.phase = s.phase := rfl
@[simp] theorem State.refuseAccess_engine : s.refuseAccess.engine = s.engine := rfl
@[simp] theorem State.refuseAccess_resp : s.refuseAccess.resp = .busError := rfl
@[simp] theorem State.refuseAccess_inputs : s.refuseAccess.inputs = s.inputs := rfl
@[simp] theorem State.refuseAccess_turns : s.refuseAccess.turns = s.turns := rfl
@[simp] theorem State.refuseAccess_freeCount : s.refuseAccess.freeCount = s.freeCount := rfl

@[simp] theorem State.hazard_bufBlocks : s.hazard.bufBlocks = s.bufBlocks := rfl
@[simp] theorem State.hazard_ctrl : s.hazard.ctrl = s.ctrl := rfl
@[simp] theorem State.hazard_done : s.hazard.done = s.done := rfl
@[simp] theorem State.hazard_err : s.hazard.err = s.err := rfl
@[simp] theorem State.hazard_ie : s.hazard.ie = s.ie := rfl
@[simp] theorem State.hazard_keyLen : s.hazard.keyLen = s.keyLen := rfl
@[simp] theorem State.hazard_inLen : s.hazard.inLen = s.inLen := rfl
@[simp] theorem State.hazard_outLen : s.hazard.outLen = s.outLen := rfl
@[simp] theorem State.hazard_key : s.hazard.key = s.key := rfl
@[simp] theorem State.hazard_iv : s.hazard.iv = s.iv := rfl
@[simp] theorem State.hazard_inBuf : s.hazard.inBuf = s.inBuf := rfl
@[simp] theorem State.hazard_outBuf : s.hazard.outBuf = s.outBuf := rfl
@[simp] theorem State.hazard_faults : s.hazard.faults = s.faults.record .hostHazard := rfl
@[simp] theorem State.hazard_phase : s.hazard.phase = s.phase := rfl
@[simp] theorem State.hazard_engine : s.hazard.engine = s.engine := rfl
@[simp] theorem State.hazard_resp : s.hazard.resp = .noValue := rfl
@[simp] theorem State.hazard_inputs : s.hazard.inputs = s.inputs := rfl
@[simp] theorem State.hazard_turns : s.hazard.turns = s.turns := rfl
@[simp] theorem State.hazard_freeCount : s.hazard.freeCount = s.freeCount := rfl

@[simp] theorem State.uninitAccess_bufBlocks : s.uninitAccess.bufBlocks = s.bufBlocks := rfl
@[simp] theorem State.uninitAccess_ctrl : s.uninitAccess.ctrl = s.ctrl := rfl
@[simp] theorem State.uninitAccess_done : s.uninitAccess.done = s.done := rfl
@[simp] theorem State.uninitAccess_err : s.uninitAccess.err = s.err := rfl
@[simp] theorem State.uninitAccess_ie : s.uninitAccess.ie = s.ie := rfl
@[simp] theorem State.uninitAccess_keyLen : s.uninitAccess.keyLen = s.keyLen := rfl
@[simp] theorem State.uninitAccess_inLen : s.uninitAccess.inLen = s.inLen := rfl
@[simp] theorem State.uninitAccess_outLen : s.uninitAccess.outLen = s.outLen := rfl
@[simp] theorem State.uninitAccess_key : s.uninitAccess.key = s.key := rfl
@[simp] theorem State.uninitAccess_iv : s.uninitAccess.iv = s.iv := rfl
@[simp] theorem State.uninitAccess_inBuf : s.uninitAccess.inBuf = s.inBuf := rfl
@[simp] theorem State.uninitAccess_outBuf : s.uninitAccess.outBuf = s.outBuf := rfl
@[simp] theorem State.uninitAccess_faults : s.uninitAccess.faults = s.faults.record .uninitRead := rfl
@[simp] theorem State.uninitAccess_phase : s.uninitAccess.phase = s.phase := rfl
@[simp] theorem State.uninitAccess_engine : s.uninitAccess.engine = s.engine := rfl
@[simp] theorem State.uninitAccess_resp : s.uninitAccess.resp = .noValue := rfl
@[simp] theorem State.uninitAccess_inputs : s.uninitAccess.inputs = s.inputs := rfl
@[simp] theorem State.uninitAccess_turns : s.uninitAccess.turns = s.turns := rfl
@[simp] theorem State.uninitAccess_freeCount : s.uninitAccess.freeCount = s.freeCount := rfl

@[simp] theorem State.uninitBlock_bufBlocks : s.uninitBlock.bufBlocks = s.bufBlocks := rfl
@[simp] theorem State.uninitBlock_ctrl : s.uninitBlock.ctrl = s.ctrl := rfl
@[simp] theorem State.uninitBlock_done : s.uninitBlock.done = s.done := rfl
@[simp] theorem State.uninitBlock_err : s.uninitBlock.err = s.err := rfl
@[simp] theorem State.uninitBlock_ie : s.uninitBlock.ie = s.ie := rfl
@[simp] theorem State.uninitBlock_keyLen : s.uninitBlock.keyLen = s.keyLen := rfl
@[simp] theorem State.uninitBlock_inLen : s.uninitBlock.inLen = s.inLen := rfl
@[simp] theorem State.uninitBlock_outLen : s.uninitBlock.outLen = s.outLen := rfl
@[simp] theorem State.uninitBlock_key : s.uninitBlock.key = s.key := rfl
@[simp] theorem State.uninitBlock_iv : s.uninitBlock.iv = s.iv := rfl
@[simp] theorem State.uninitBlock_inBuf : s.uninitBlock.inBuf = s.inBuf := rfl
@[simp] theorem State.uninitBlock_outBuf : s.uninitBlock.outBuf = s.outBuf := rfl
@[simp] theorem State.uninitBlock_faults : s.uninitBlock.faults = s.faults.record .uninitRead := rfl
@[simp] theorem State.uninitBlock_phase : s.uninitBlock.phase = s.phase := rfl
@[simp] theorem State.uninitBlock_engine : s.uninitBlock.engine = s.engine := rfl
@[simp] theorem State.uninitBlock_resp : s.uninitBlock.resp = s.resp := rfl
@[simp] theorem State.uninitBlock_inputs : s.uninitBlock.inputs = s.inputs := rfl
@[simp] theorem State.uninitBlock_turns : s.uninitBlock.turns = s.turns := rfl
@[simp] theorem State.uninitBlock_freeCount : s.uninitBlock.freeCount = s.freeCount := rfl

@[simp] theorem State.errorComplete_bufBlocks (e : ErrCode) : (s.errorComplete e).bufBlocks = s.bufBlocks := rfl
@[simp] theorem State.errorComplete_ctrl (e : ErrCode) : (s.errorComplete e).ctrl = s.ctrl := rfl
@[simp] theorem State.errorComplete_done (e : ErrCode) : (s.errorComplete e).done = true := rfl
@[simp] theorem State.errorComplete_err (e : ErrCode) : (s.errorComplete e).err = e.code := rfl
@[simp] theorem State.errorComplete_ie (e : ErrCode) : (s.errorComplete e).ie = s.ie := rfl
@[simp] theorem State.errorComplete_keyLen (e : ErrCode) : (s.errorComplete e).keyLen = s.keyLen := rfl
@[simp] theorem State.errorComplete_inLen (e : ErrCode) : (s.errorComplete e).inLen = s.inLen := rfl
@[simp] theorem State.errorComplete_outLen (e : ErrCode) : (s.errorComplete e).outLen = s.outLen := rfl
@[simp] theorem State.errorComplete_key (e : ErrCode) : (s.errorComplete e).key = s.key := rfl
@[simp] theorem State.errorComplete_iv (e : ErrCode) : (s.errorComplete e).iv = s.iv := rfl
@[simp] theorem State.errorComplete_inBuf (e : ErrCode) : (s.errorComplete e).inBuf = s.inBuf := rfl
@[simp] theorem State.errorComplete_outBuf (e : ErrCode) : (s.errorComplete e).outBuf = s.outBuf := rfl
@[simp] theorem State.errorComplete_faults (e : ErrCode) : (s.errorComplete e).faults = s.faults := rfl
@[simp] theorem State.errorComplete_phase (e : ErrCode) : (s.errorComplete e).phase = s.phase := rfl
@[simp] theorem State.errorComplete_engine (e : ErrCode) : (s.errorComplete e).engine = s.engine := rfl
@[simp] theorem State.errorComplete_resp (e : ErrCode) : (s.errorComplete e).resp = s.resp := rfl
@[simp] theorem State.errorComplete_inputs (e : ErrCode) : (s.errorComplete e).inputs = s.inputs := rfl
@[simp] theorem State.errorComplete_turns (e : ErrCode) : (s.errorComplete e).turns = s.turns := rfl
@[simp] theorem State.errorComplete_freeCount (e : ErrCode) : (s.errorComplete e).freeCount = s.freeCount := rfl

@[simp] theorem State.complete_bufBlocks : s.complete.bufBlocks = s.bufBlocks := rfl
@[simp] theorem State.complete_ctrl : s.complete.ctrl = s.ctrl := rfl
@[simp] theorem State.complete_done : s.complete.done = true := rfl
@[simp] theorem State.complete_err : s.complete.err = 0#3 := rfl
@[simp] theorem State.complete_ie : s.complete.ie = s.ie := rfl
@[simp] theorem State.complete_keyLen : s.complete.keyLen = s.keyLen := rfl
@[simp] theorem State.complete_inLen : s.complete.inLen = s.inLen := rfl
@[simp] theorem State.complete_outLen : s.complete.outLen = s.outLen := rfl
@[simp] theorem State.complete_key : s.complete.key = s.key := rfl
@[simp] theorem State.complete_iv : s.complete.iv = s.iv := rfl
@[simp] theorem State.complete_inBuf : s.complete.inBuf = s.inBuf := rfl
@[simp] theorem State.complete_outBuf : s.complete.outBuf = s.outBuf := rfl
@[simp] theorem State.complete_faults : s.complete.faults = s.faults := rfl
@[simp] theorem State.complete_phase : s.complete.phase = .idle := rfl
@[simp] theorem State.complete_engine : s.complete.engine = Config.freeEngine s.freeCount := rfl
@[simp] theorem State.complete_resp : s.complete.resp = s.resp := rfl
@[simp] theorem State.complete_inputs : s.complete.inputs = s.inputs := rfl
@[simp] theorem State.complete_turns : s.complete.turns = s.turns := rfl
@[simp] theorem State.complete_freeCount : s.complete.freeCount = s.freeCount + 1 := rfl

@[simp] theorem State.issue_bufBlocks (c : Command) : (s.issue c).bufBlocks = s.bufBlocks := rfl
@[simp] theorem State.issue_ctrl (c : Command) : (s.issue c).ctrl = s.ctrl := rfl
@[simp] theorem State.issue_done (c : Command) : (s.issue c).done = false := rfl
@[simp] theorem State.issue_err (c : Command) : (s.issue c).err = 0#3 := rfl
@[simp] theorem State.issue_ie (c : Command) : (s.issue c).ie = s.ie := rfl
@[simp] theorem State.issue_keyLen (c : Command) : (s.issue c).keyLen = s.keyLen := rfl
@[simp] theorem State.issue_inLen (c : Command) : (s.issue c).inLen = s.inLen := rfl
@[simp] theorem State.issue_outLen (c : Command) : (s.issue c).outLen = s.outLen := rfl
@[simp] theorem State.issue_key (c : Command) : (s.issue c).key = s.key := rfl
@[simp] theorem State.issue_iv (c : Command) : (s.issue c).iv = s.iv := rfl
@[simp] theorem State.issue_inBuf (c : Command) : (s.issue c).inBuf = s.inBuf := rfl
@[simp] theorem State.issue_outBuf (c : Command) : (s.issue c).outBuf = s.outBuf := rfl
@[simp] theorem State.issue_faults (c : Command) : (s.issue c).faults = s.faults := rfl
@[simp] theorem State.issue_phase (c : Command) : (s.issue c).phase = .busy := rfl
@[simp] theorem State.issue_engine (c : Command) : (s.issue c).engine = { s.engine with cmd := s.latchCmd c, ch := s.loadChain c.mode, idx := 0 } := rfl
@[simp] theorem State.issue_resp (c : Command) : (s.issue c).resp = s.resp := rfl
@[simp] theorem State.issue_inputs (c : Command) : (s.issue c).inputs = s.inputs := rfl
@[simp] theorem State.issue_turns (c : Command) : (s.issue c).turns = s.turns := rfl
@[simp] theorem State.issue_freeCount (c : Command) : (s.issue c).freeCount = s.freeCount := rfl

@[simp] theorem State.writeOutBlock_bufBlocks (r : Engine × Block) : (s.writeOutBlock r).bufBlocks = s.bufBlocks := rfl
@[simp] theorem State.writeOutBlock_ctrl (r : Engine × Block) : (s.writeOutBlock r).ctrl = s.ctrl := rfl
@[simp] theorem State.writeOutBlock_done (r : Engine × Block) : (s.writeOutBlock r).done = s.done := rfl
@[simp] theorem State.writeOutBlock_err (r : Engine × Block) : (s.writeOutBlock r).err = s.err := rfl
@[simp] theorem State.writeOutBlock_ie (r : Engine × Block) : (s.writeOutBlock r).ie = s.ie := rfl
@[simp] theorem State.writeOutBlock_keyLen (r : Engine × Block) : (s.writeOutBlock r).keyLen = s.keyLen := rfl
@[simp] theorem State.writeOutBlock_inLen (r : Engine × Block) : (s.writeOutBlock r).inLen = s.inLen := rfl
@[simp] theorem State.writeOutBlock_outLen (r : Engine × Block) : (s.writeOutBlock r).outLen = s.outLen := rfl
@[simp] theorem State.writeOutBlock_key (r : Engine × Block) : (s.writeOutBlock r).key = s.key := rfl
@[simp] theorem State.writeOutBlock_iv (r : Engine × Block) : (s.writeOutBlock r).iv = s.iv := rfl
@[simp] theorem State.writeOutBlock_inBuf (r : Engine × Block) : (s.writeOutBlock r).inBuf = s.inBuf := rfl
@[simp] theorem State.writeOutBlock_outBuf (r : Engine × Block) : (s.writeOutBlock r).outBuf = s.outBuf.writeBlock (8 * s.engine.idx) r.2 := rfl
@[simp] theorem State.writeOutBlock_faults (r : Engine × Block) : (s.writeOutBlock r).faults = s.faults := rfl
@[simp] theorem State.writeOutBlock_phase (r : Engine × Block) : (s.writeOutBlock r).phase = s.phase := rfl
@[simp] theorem State.writeOutBlock_engine (r : Engine × Block) : (s.writeOutBlock r).engine = { r.1 with idx := s.engine.idx + 1 } := rfl
@[simp] theorem State.writeOutBlock_resp (r : Engine × Block) : (s.writeOutBlock r).resp = s.resp := rfl
@[simp] theorem State.writeOutBlock_inputs (r : Engine × Block) : (s.writeOutBlock r).inputs = s.inputs := rfl
@[simp] theorem State.writeOutBlock_turns (r : Engine × Block) : (s.writeOutBlock r).turns = s.turns := rfl
@[simp] theorem State.writeOutBlock_freeCount (r : Engine × Block) : (s.writeOutBlock r).freeCount = s.freeCount := rfl

@[simp] theorem State.forgetEngine_bufBlocks : s.forgetEngine.bufBlocks = s.bufBlocks := rfl
@[simp] theorem State.forgetEngine_ctrl : s.forgetEngine.ctrl = s.ctrl := rfl
@[simp] theorem State.forgetEngine_done : s.forgetEngine.done = s.done := rfl
@[simp] theorem State.forgetEngine_err : s.forgetEngine.err = s.err := rfl
@[simp] theorem State.forgetEngine_ie : s.forgetEngine.ie = s.ie := rfl
@[simp] theorem State.forgetEngine_keyLen : s.forgetEngine.keyLen = s.keyLen := rfl
@[simp] theorem State.forgetEngine_inLen : s.forgetEngine.inLen = s.inLen := rfl
@[simp] theorem State.forgetEngine_outLen : s.forgetEngine.outLen = s.outLen := rfl
@[simp] theorem State.forgetEngine_key : s.forgetEngine.key = s.key := rfl
@[simp] theorem State.forgetEngine_iv : s.forgetEngine.iv = s.iv := rfl
@[simp] theorem State.forgetEngine_inBuf : s.forgetEngine.inBuf = s.inBuf := rfl
@[simp] theorem State.forgetEngine_outBuf : s.forgetEngine.outBuf = s.outBuf := rfl
@[simp] theorem State.forgetEngine_faults : s.forgetEngine.faults = s.faults := rfl
@[simp] theorem State.forgetEngine_phase : s.forgetEngine.phase = s.phase := rfl
@[simp] theorem State.forgetEngine_engine : s.forgetEngine.engine = Engine.atReset := rfl
@[simp] theorem State.forgetEngine_resp : s.forgetEngine.resp = s.resp := rfl
@[simp] theorem State.forgetEngine_inputs : s.forgetEngine.inputs = s.inputs := rfl
@[simp] theorem State.forgetEngine_turns : s.forgetEngine.turns = s.turns := rfl
@[simp] theorem State.forgetEngine_freeCount : s.forgetEngine.freeCount = s.freeCount := rfl

@[simp] theorem State.writeStatus_bufBlocks (d : Word) : (s.writeStatus d).bufBlocks = s.bufBlocks := by
  unfold State.writeStatus; split <;> rfl
@[simp] theorem State.writeStatus_ctrl (d : Word) : (s.writeStatus d).ctrl = s.ctrl := by
  unfold State.writeStatus; split <;> rfl
@[simp] theorem State.writeStatus_ie (d : Word) : (s.writeStatus d).ie = s.ie := by
  unfold State.writeStatus; split <;> rfl
@[simp] theorem State.writeStatus_keyLen (d : Word) : (s.writeStatus d).keyLen = s.keyLen := by
  unfold State.writeStatus; split <;> rfl
@[simp] theorem State.writeStatus_inLen (d : Word) : (s.writeStatus d).inLen = s.inLen := by
  unfold State.writeStatus; split <;> rfl
@[simp] theorem State.writeStatus_outLen (d : Word) : (s.writeStatus d).outLen = s.outLen := by
  unfold State.writeStatus; split <;> rfl
@[simp] theorem State.writeStatus_key (d : Word) : (s.writeStatus d).key = s.key := by
  unfold State.writeStatus; split <;> rfl
@[simp] theorem State.writeStatus_iv (d : Word) : (s.writeStatus d).iv = s.iv := by
  unfold State.writeStatus; split <;> rfl
@[simp] theorem State.writeStatus_inBuf (d : Word) : (s.writeStatus d).inBuf = s.inBuf := by
  unfold State.writeStatus; split <;> rfl
@[simp] theorem State.writeStatus_outBuf (d : Word) : (s.writeStatus d).outBuf = s.outBuf := by
  unfold State.writeStatus; split <;> rfl
@[simp] theorem State.writeStatus_faults (d : Word) : (s.writeStatus d).faults = s.faults := by
  unfold State.writeStatus; split <;> rfl
@[simp] theorem State.writeStatus_phase (d : Word) : (s.writeStatus d).phase = s.phase := by
  unfold State.writeStatus; split <;> rfl
@[simp] theorem State.writeStatus_engine (d : Word) : (s.writeStatus d).engine = s.engine := by
  unfold State.writeStatus; split <;> rfl
@[simp] theorem State.writeStatus_resp (d : Word) : (s.writeStatus d).resp = s.resp := by
  unfold State.writeStatus; split <;> rfl
@[simp] theorem State.writeStatus_inputs (d : Word) : (s.writeStatus d).inputs = s.inputs := by
  unfold State.writeStatus; split <;> rfl
@[simp] theorem State.writeStatus_turns (d : Word) : (s.writeStatus d).turns = s.turns := by
  unfold State.writeStatus; split <;> rfl
@[simp] theorem State.writeStatus_freeCount (d : Word) : (s.writeStatus d).freeCount = s.freeCount := by
  unfold State.writeStatus; split <;> rfl

/-- An ACK clears DONE (R265). -/
theorem State.writeStatus_done (d : Word) : (s.writeStatus d).done = (s.done && !d.getLsbD 1) := by
  unfold State.writeStatus; split <;> simp_all

/-- An ACK clears ERR (R265). -/
theorem State.writeStatus_err (d : Word) : (s.writeStatus d).err = if d.getLsbD 1 then 0#3 else s.err := by
  unfold State.writeStatus; split <;> simp_all

@[simp] theorem State.applyReset_bufBlocks : s.applyReset.bufBlocks = s.bufBlocks := rfl
@[simp] theorem State.applyReset_ctrl : s.applyReset.ctrl = 0#31 := rfl
@[simp] theorem State.applyReset_done : s.applyReset.done = false := rfl
@[simp] theorem State.applyReset_err : s.applyReset.err = 0#3 := rfl
@[simp] theorem State.applyReset_ie : s.applyReset.ie = false := rfl
@[simp] theorem State.applyReset_keyLen : s.applyReset.keyLen = 0#32 := rfl
@[simp] theorem State.applyReset_inLen : s.applyReset.inLen = 0#32 := rfl
@[simp] theorem State.applyReset_outLen : s.applyReset.outLen = 0#32 := rfl
@[simp] theorem State.applyReset_key : s.applyReset.key = ⟨0#32, 0#32, 0#32, 0#32, 0#32, 0#32⟩ := rfl
@[simp] theorem State.applyReset_iv : s.applyReset.iv = ⟨0#32, 0#32⟩ := rfl
@[simp] theorem State.applyReset_inBuf : s.applyReset.inBuf = [] := rfl
@[simp] theorem State.applyReset_outBuf : s.applyReset.outBuf = [] := rfl
@[simp] theorem State.applyReset_faults : s.applyReset.faults = FaultSet.empty := rfl
@[simp] theorem State.applyReset_phase : s.applyReset.phase = .idle := rfl
@[simp] theorem State.applyReset_engine : s.applyReset.engine = Engine.atReset := rfl
@[simp] theorem State.applyReset_resp : s.applyReset.resp = .nothing := rfl
@[simp] theorem State.applyReset_inputs : s.applyReset.inputs = s.inputs := rfl
@[simp] theorem State.applyReset_turns : s.applyReset.turns = s.turns := rfl
@[simp] theorem State.applyReset_freeCount : s.applyReset.freeCount = s.freeCount := rfl

/-- BUF_BYTES is a function of the parameter alone. -/
theorem State.bufBytes_congr {s t : State} (h : t.bufBlocks = s.bufBlocks) : t.bufBytes = s.bufBytes := by
  unfold State.bufBytes; rw [h]

/-- BUF_BYTES is a multiple of 8 from 8 to 4096 (R8). -/
theorem State.bufBytes_legal : s.bufBytes % 8 = 0 ∧ 8 ≤ s.bufBytes ∧ s.bufBytes ≤ 4096 := by
  have := s.bufBlocks.isLt
  unfold State.bufBytes; omega

end Sys2Proof.Machine
end

