-- ==== Sys2Proof/Laws/Operands.lean ====
section
/-! SUPPORT. The window map, said once: which slot an offset selects in each of R71's ranges; alignment as arithmetic. -/

namespace Sys2Proof.Machine

/-- OFFSET[1:0] = 00 says that the offset is a multiple of 4 (R72). -/
theorem offsetAligned_iff (o : Offset) : offsetAligned o = true ↔ o.toNat % 4 = 0 := by
  unfold offsetAligned
  rw [beq_iff_eq]
  constructor
  · intro h; have := congrArg BitVec.toNat h; simpa [BitVec.extractLsb'_toNat] using this
  · intro h; apply BitVec.eq_of_toNat_eq; simpa [BitVec.extractLsb'_toNat] using h

/-- An offset that is none of the fourteen registers' is looked up among the buffers (R33, R71). -/
theorem slotAt_of_no_register (bufBytes : Nat) (o : Offset)
    (h : ∀ v ∈ [0x000, 0x004, 0x008, 0x00C, 0x010, 0x014, 0x020, 0x024, 0x028, 0x02C, 0x030, 0x034, 0x040, 0x044],
      o.toNat ≠ v) : slotAt bufBytes o = bufferSlot bufBytes o.toNat := by
  have ne : ∀ v : Offset, o.toNat ≠ v.toNat → o ≠ v := fun v hv e => hv (e ▸ rfl)
  simp only [List.mem_cons, List.not_mem_nil, or_false, forall_eq_or_imp, forall_eq] at h
  obtain ⟨h0, h1, h2, h3, h4, h5, h6, h7, h8, h9, h10, h11, h12, h13⟩ := h
  unfold slotAt
  rw [if_neg (ne 0x000#14 h0), if_neg (ne 0x004#14 h1), if_neg (ne 0x008#14 h2), if_neg (ne 0x00C#14 h3),
    if_neg (ne 0x010#14 h4), if_neg (ne 0x014#14 h5), if_neg (ne 0x020#14 h6), if_neg (ne 0x024#14 h7),
    if_neg (ne 0x028#14 h8), if_neg (ne 0x02C#14 h9), if_neg (ne 0x030#14 h10), if_neg (ne 0x034#14 h11),
    if_neg (ne 0x040#14 h12), if_neg (ne 0x044#14 h13)]

/-- Byte `j` of IN_BUF is at offset 0x1000 + j (R71). -/
theorem slotAt_inBuf (s : State) (o : Offset) (j : Nat) (hj : j < s.bufBytes) (ho : o.toNat = 0x1000 + j) :
    slotAt s.bufBytes o = .inBuf j := by
  rw [slotAt_of_no_register _ _ (by simp only [List.mem_cons, List.not_mem_nil, or_false]; omega)]
  unfold bufferSlot
  rw [if_pos (by omega)]
  exact congrArg Slot.inBuf (by omega)

/-- Byte `j` of OUT_BUF is at offset 0x2000 + j (R71). -/
theorem slotAt_outBuf (s : State) (o : Offset) (j : Nat) (hj : j < s.bufBytes) (ho : o.toNat = 0x2000 + j) :
    slotAt s.bufBytes o = .outBuf j := by
  have hB := s.bufBytes_legal
  rw [slotAt_of_no_register _ _ (by simp only [List.mem_cons, List.not_mem_nil, or_false]; omega)]
  unfold bufferSlot
  rw [if_neg (by omega), if_pos (by omega)]
  exact congrArg Slot.outBuf (by omega)

/-- The offsets that lie in no register and in no buffer are reserved (R71, R78). -/
theorem slotAt_reserved (s : State) (o : Offset)
    (h : (0x018 ≤ o.toNat ∧ o.toNat < 0x020) ∨ (0x038 ≤ o.toNat ∧ o.toNat < 0x040) ∨
      (0x048 ≤ o.toNat ∧ o.toNat < 0x1000) ∨ (0x1000 + s.bufBytes ≤ o.toNat ∧ o.toNat < 0x2000) ∨
      0x2000 + s.bufBytes ≤ o.toNat) : slotAt s.bufBytes o = .reserved := by
  have hB := s.bufBytes_legal
  rw [slotAt_of_no_register _ _ (by simp only [List.mem_cons, List.not_mem_nil, or_false]; omega)]
  unfold bufferSlot
  rw [if_neg (by omega), if_neg (by omega)]

/-- Which offset selects a slot: a slot's offset can be read off (R33, R71). -/
theorem slotAt_spec (s : State) (o : Offset) :
    match slotAt s.bufBytes o with
    | .ctrl => o = 0x000#14
    | .status => o = 0x004#14
    | .irqEn => o = 0x008#14
    | .keyLen => o = 0x00C#14
    | .inLen => o = 0x010#14
    | .outLen => o = 0x014#14
    | .key w => o.toNat = 0x020 + 4 * w.val
    | .iv w => o.toNat = 0x040 + 4 * w.val
    | .inBuf j => o.toNat = 0x1000 + j ∧ j < s.bufBytes
    | .outBuf j => o.toNat = 0x2000 + j ∧ j < s.bufBytes
    | .reserved => True := by
  unfold slotAt
  by_cases h0 : o = 0x000#14; · subst h0; rfl
  by_cases h1 : o = 0x004#14; · subst h1; rfl
  by_cases h2 : o = 0x008#14; · subst h2; rfl
  by_cases h3 : o = 0x00C#14; · subst h3; rfl
  by_cases h4 : o = 0x010#14; · subst h4; rfl
  by_cases h5 : o = 0x014#14; · subst h5; rfl
  by_cases h6 : o = 0x020#14; · subst h6; rfl
  by_cases h7 : o = 0x024#14; · subst h7; rfl
  by_cases h8 : o = 0x028#14; · subst h8; rfl
  by_cases h9 : o = 0x02C#14; · subst h9; rfl
  by_cases h10 : o = 0x030#14; · subst h10; rfl
  by_cases h11 : o = 0x034#14; · subst h11; rfl
  by_cases h12 : o = 0x040#14; · subst h12; rfl
  by_cases h13 : o = 0x044#14; · subst h13; rfl
  rw [if_neg h0, if_neg h1, if_neg h2, if_neg h3, if_neg h4, if_neg h5, if_neg h6, if_neg h7, if_neg h8, if_neg h9,
    if_neg h10, if_neg h11, if_neg h12, if_neg h13]
  unfold bufferSlot
  by_cases ha : 0x1000 ≤ o.toNat ∧ o.toNat < 0x1000 + s.bufBytes
  · rw [if_pos ha]; exact ⟨by omega, by omega⟩
  · rw [if_neg ha]
    by_cases hb : 0x2000 ≤ o.toNat ∧ o.toNat < 0x2000 + s.bufBytes
    · rw [if_pos hb]; exact ⟨by omega, by omega⟩
    · rw [if_neg hb]; trivial

/-- A word of a buffer that an aligned offset selects lies in the buffer as a whole (R8, R71, R72). -/
theorem slotAt_buffer_word (s : State) (o : Offset) (j : Nat) (ha : offsetAligned o = true)
    (h : slotAt s.bufBytes o = .inBuf j ∨ slotAt s.bufBytes o = .outBuf j) : j % 4 = 0 ∧ j + 4 ≤ s.bufBytes := by
  have hB := s.bufBytes_legal
  have h4 := (offsetAligned_iff o).1 ha
  have hs := slotAt_spec s o
  rcases h with h | h <;> simp only [h] at hs <;> omega

end Sys2Proof.Machine
end

