-- ==== Sys2Proof/Laws/Ops.lean ====
section
/-! SUPPORT. For each shared operation, what it can do, said once: the accesses, the START write, the core's step and the
machine's step. Later proofs cite these and do not unfold the operations. -/

namespace Sys2Proof.Machine

/-- Everything a host read can do (R260). -/
theorem State.hostRead_cases (s : State) (o : Offset) :
    (offsetAligned o = false ∧ s.hostRead o = s.refuseAccess) ∨
    (offsetAligned o = true ∧ s.phase = .busy ∧ o ≠ 0x004#14 ∧ s.hostRead o = s.hazard) ∨
    (offsetAligned o = true ∧ (s.phase = .busy → o = 0x004#14) ∧ ∃ v, s.readSlot (slotAt s.bufBytes o) = some v ∧
      s.hostRead o = { s with resp := .data v }) ∨
    (offsetAligned o = true ∧ (s.phase = .busy → o = 0x004#14) ∧ s.readSlot (slotAt s.bufBytes o) = none ∧
      s.hostRead o = s.uninitAccess) := by
  unfold State.hostRead
  cases ha : offsetAligned o
  · exact .inl ⟨rfl, by simp⟩
  · refine .inr ?_
    by_cases hb : s.phase = .busy ∧ o ≠ 0x004#14
    · exact .inl ⟨rfl, hb.1, hb.2, by simp [hb]⟩
    · have hp : s.phase = .busy → o = 0x004#14 := fun h => Classical.byContradiction fun hn => hb ⟨h, hn⟩
      cases hr : s.readSlot (slotAt s.bufBytes o) with
      | none => exact .inr (.inr ⟨rfl, hp, rfl, by rw [if_neg (by simp), if_neg hb]⟩)
      | some v => exact .inr (.inl ⟨rfl, hp, v, rfl, by rw [if_neg (by simp), if_neg hb]⟩)

/-- Everything a host write can do (R261). -/
theorem State.hostWrite_cases (s : State) (o : Offset) (d : Word) :
    (offsetAligned o = false ∧ s.hostWrite o d = s.refuseAccess) ∨
    (offsetAligned o = true ∧ s.phase = .busy ∧ s.hostWrite o d = s.hazard) ∨
    (offsetAligned o = true ∧ s.phase = .idle ∧
      s.hostWrite o d = { s with resp := .accepted }.writeSlot d (slotAt s.bufBytes o)) := by
  unfold State.hostWrite
  cases ha : offsetAligned o
  · exact .inl ⟨rfl, by simp⟩
  · cases hb : s.phase
    · exact .inr (.inr ⟨rfl, rfl, by simp⟩)
    · exact .inr (.inl ⟨rfl, rfl, by simp⟩)

/-- Everything a START write can do (R222, R264). -/
theorem State.start_cases (s : State) (w : Word) :
    (∃ e, validate w s.keyLen s.inLen s.outLen s.bufBytes = .error e ∧ s.start w = s.errorComplete e) ∨
    (∃ c, validate w s.keyLen s.inLen s.outLen s.bufBytes = .ok c ∧ s.start w = s.issue c) := by
  unfold State.start
  cases h : validate w s.keyLen s.inLen s.outLen s.bufBytes with
  | error e => exact .inl ⟨e, rfl, rfl⟩
  | ok c => exact .inr ⟨c, rfl, rfl⟩

/-- A word passes validation exactly when it decodes and the four length checks hold (R221). -/
theorem validate_eq_ok_iff (w keyLen inLen outLen : Word) (bufBytes : Nat) (c : Command) :
    validate w keyLen inLen outLen bufBytes = .ok c ↔
      decodeCtrl w = .ok c ∧ inLen = outLen ∧ inLen.toNat % Config.blockSize = 0 ∧
        keyLen.toNat = Config.keySize c.cipher ∧ inLen.toNat ≤ bufBytes := by
  unfold validate
  cases hd : decodeCtrl w with
  | error e => simp
  | ok c' =>
    simp only [ne_eq]
    split
    · next h => simp only [reduceCtorEq, Except.ok.injEq, false_iff]; exact fun hh => h hh.2.1
    · next h =>
      split
      · next h2 => simp only [reduceCtorEq, Except.ok.injEq, false_iff]; exact fun hh => h2 hh.2.2.1
      · next h2 =>
        split
        · next h3 =>
          simp only [reduceCtorEq, Except.ok.injEq, false_iff]
          rintro ⟨rfl, -, -, hk, -⟩
          exact h3 hk
        · next h3 =>
          split
          · next h4 => simp only [reduceCtorEq, Except.ok.injEq, false_iff]; exact fun hh => absurd hh.2.2.2.2 (by omega)
          · next h4 =>
            simp only [Except.ok.injEq]
            constructor
            · rintro rfl; exact ⟨rfl, by simpa using h, by simpa using h2, by simpa using h3, by omega⟩
            · exact fun hh => hh.1

/-- Everything the core's own step can do (R224, R227 to R229). -/
theorem State.coreStep_cases (s : State) :
    (s.engine.idx < s.engine.cmd.nblk ∧ s.inBuf.readBlock (8 * s.engine.idx) = none ∧ s.coreStep = s.uninitBlock) ∨
    (∃ x, s.engine.idx < s.engine.cmd.nblk ∧ s.engine.cmd.mode = .ecb ∧
      s.inBuf.readBlock (8 * s.engine.idx) = some x ∧ s.coreStep = s.writeOutBlock (ecbCompute x s.engine)) ∨
    (∃ x, s.engine.idx < s.engine.cmd.nblk ∧ s.engine.cmd.mode = .cbc ∧
      s.inBuf.readBlock (8 * s.engine.idx) = some x ∧ s.coreStep = s.writeOutBlock (cbcCompute x s.engine)) ∨
    (s.engine.idx = s.engine.cmd.nblk ∧ s.coreStep = s.complete) ∨
    (s.engine.cmd.nblk < s.engine.idx ∧ s.coreStep = s) := by
  unfold State.coreStep
  by_cases h : s.engine.idx < s.engine.cmd.nblk
  · simp only [h, if_true, true_and]
    unfold State.blockStep
    cases hm : s.engine.cmd.mode with
    | ecb =>
      unfold State.ecbStep
      cases hr : s.inBuf.readBlock (8 * s.engine.idx) with
      | none => exact .inl ⟨rfl, rfl⟩
      | some x => exact .inr (.inl ⟨x, rfl, rfl, rfl⟩)
    | cbc =>
      unfold State.cbcStep
      cases hr : s.inBuf.readBlock (8 * s.engine.idx) with
      | none => exact .inl ⟨rfl, rfl⟩
      | some x => exact .inr (.inr (.inl ⟨x, rfl, rfl, rfl⟩))
  · simp only [h, if_false]
    by_cases h2 : s.engine.idx = s.engine.cmd.nblk
    · exact .inr (.inr (.inr (.inl ⟨h2, by simp [h2]⟩)))
    · exact .inr (.inr (.inr (.inr ⟨by omega, by simp [h2]⟩)))

/-- Every instruction completes in a next state: a host write or a host read (R270: none can trap). -/
theorem exec_cases (i : Instr) (s : State) :
    (∃ o d, exec i s = .next (s.hostWrite o d)) ∨ (∃ o, exec i s = .next (s.hostRead o)) := by
  cases i with
  | rd32 o => exact .inr ⟨o, rfl⟩
  | wr32 o d => exact .inl ⟨o, d, rfl⟩
  | desEcbEnc => exact .inl ⟨_, _, rfl⟩
  | desEcbDec => exact .inl ⟨_, _, rfl⟩
  | tdes2EcbEnc => exact .inl ⟨_, _, rfl⟩
  | tdes2EcbDec => exact .inl ⟨_, _, rfl⟩
  | tdes3EcbEnc => exact .inl ⟨_, _, rfl⟩
  | tdes3EcbDec => exact .inl ⟨_, _, rfl⟩
  | desCbcEnc => exact .inl ⟨_, _, rfl⟩
  | desCbcDec => exact .inl ⟨_, _, rfl⟩
  | tdes2CbcEnc => exact .inl ⟨_, _, rfl⟩
  | tdes2CbcDec => exact .inl ⟨_, _, rfl⟩
  | tdes3CbcEnc => exact .inl ⟨_, _, rfl⟩
  | tdes3CbcDec => exact .inl ⟨_, _, rfl⟩

/-- Everything a POLL's read can do (R110). -/
theorem pollOnce_cases (s : State) :
    pollOnce s = .next { s.hostRead 0x004#14 with inputs := .poll :: (s.hostRead 0x004#14).inputs } ∨
    pollOnce s = .next (s.hostRead 0x004#14) := by
  have h : pollOnce s = if pollAgain (s.hostRead 0x004#14).resp then
      .next { s.hostRead 0x004#14 with inputs := .poll :: (s.hostRead 0x004#14).inputs }
    else .next (s.hostRead 0x004#14) := rfl
  rw [h]
  split
  · exact .inl rfl
  · exact .inr rfl

/-- Everything taking one input can do. -/
theorem takeInput_cases (input : Input) (s : State) :
    (∃ o d, takeInput input s = .next (s.hostWrite o d)) ∨
    (∃ o, takeInput input s = .next (s.hostRead o)) ∨
    (input = .poll ∧ takeInput input s = .next { s.hostRead 0x004#14 with inputs := .poll :: (s.hostRead 0x004#14).inputs }) ∨
    (takeInput input s = .next s.refuseAccess) ∨
    (takeInput input s = .next { s with resp := .notSelected }) ∨
    (input = .reset ∧ takeInput input s = .next s.applyReset) ∨
    (∃ r e, input = .txn r ∧ decodeTxn r = .error e ∧ takeInput input s = .refused (.notATransaction e)) := by
  have lift : ∀ i, (∃ o d, exec i s = .next (s.hostWrite o d)) ∨ (∃ o, exec i s = .next (s.hostRead o)) :=
    fun i => exec_cases i s
  cases input with
  | txn r =>
    cases hd : decodeTxn r with
    | ok i =>
      have h : takeInput (.txn r) s = exec i s := by simp only [takeInput, hd]
      rw [h]
      rcases lift i with h | h
      · exact .inl h
      · exact .inr (.inl h)
    | error e =>
      refine .inr (.inr (.inr (.inr (.inr (.inr ⟨r, e, rfl, hd, ?_⟩)))))
      simp only [takeInput, hd]
  | cmd w =>
    rcases lift (cmdInstr w) with h | h
    · exact .inl h
    · exact .inr (.inl h)
  | poll =>
    rcases pollOnce_cases s with h | h
    · exact .inr (.inr (.inl ⟨rfl, h⟩))
    · exact .inr (.inl ⟨_, h⟩)
  | narrow w => exact .inr (.inr (.inr (.inl rfl)))
  | bus write address data =>
    cases hw : windowOffset address with
    | none => exact .inr (.inr (.inr (.inr (.inl (by simp only [takeInput, hw])))))
    | some o =>
      have h : takeInput (.bus write address data) s = exec (busInstr write o data) s := by simp only [takeInput, hw]
      rw [h]
      rcases lift (busInstr write o data) with h | h
      · exact .inl h
      · exact .inr (.inl h)
  | reset => exact .inr (.inr (.inr (.inr (.inr (.inl ⟨rfl, rfl⟩)))))

/-- Everything the host's move can do. -/
theorem hostMove_cases (s : State) :
    (s.inputs = [] ∧ hostMove s = .next s) ∨
    (∃ i rest, s.inputs = i :: rest ∧ hostMove s = takeInput i { s with inputs := rest }) := by
  unfold hostMove
  cases h : s.inputs with
  | nil => exact .inl ⟨rfl, rfl⟩
  | cons i rest => exact .inr ⟨i, rest, rfl, rfl⟩

theorem step_of_idle {s : State} (h : s.phase = .idle) : step s = hostMove s := by
  unfold step cycle; rw [h]

theorem step_of_busy {s : State} (h : s.phase = .busy) : step s = busyCycle s := by
  unfold step cycle; rw [h]

/-- Everything a step while BUSY can do. -/
theorem busyCycle_cases (s : State) :
    (∃ i rest ts, s.inputs = i :: rest ∧ s.turns = .host :: ts ∧
      busyCycle s = takeInput i { s with inputs := rest, turns := ts }) ∨
    ((s.inputs = [] ∨ s.turns = []) ∧ busyCycle s = .next s.coreStep) ∨
    (∃ i rest ts, s.inputs = i :: rest ∧ s.turns = .core :: ts ∧ busyCycle s = .next { s with turns := ts }.coreStep) := by
  unfold busyCycle
  split
  · next h => exact .inr (.inl ⟨.inl h, rfl⟩)
  · next h => exact .inr (.inl ⟨.inr h, rfl⟩)
  · next i rest ts hi ht => exact .inr (.inr ⟨i, rest, ts, hi, ht, rfl⟩)
  · next i rest ts hi ht => exact .inl ⟨i, rest, ts, hi, ht, by simp only [hostMove, hi]⟩

/-- Everything one step can do: nothing, an input, or the core's own step, with the interleaving it uses up. -/
theorem step_cases (s : State) :
    (s.phase = .idle ∧ s.inputs = [] ∧ step s = .next s) ∨
    (∃ i rest, s.inputs = i :: rest ∧ s.phase = .idle ∧ step s = takeInput i { s with inputs := rest }) ∨
    (∃ i rest ts, s.inputs = i :: rest ∧ s.turns = .host :: ts ∧ s.phase = .busy ∧
      step s = takeInput i { s with inputs := rest, turns := ts }) ∨
    (s.phase = .busy ∧ (s.inputs = [] ∨ s.turns = []) ∧ step s = .next s.coreStep) ∨
    (∃ i rest ts, s.inputs = i :: rest ∧ s.turns = .core :: ts ∧ s.phase = .busy ∧
      step s = .next { s with turns := ts }.coreStep) := by
  have hp : s.phase = .idle ∨ s.phase = .busy := by cases s.phase <;> simp
  rcases hp with hp | hp
  · rw [step_of_idle hp]
    rcases hostMove_cases s with ⟨h, h'⟩ | ⟨i, rest, h, h'⟩
    · exact .inl ⟨hp, h, h'⟩
    · exact .inr (.inl ⟨i, rest, h, hp, h'⟩)
  · rw [step_of_busy hp]
    rcases busyCycle_cases s with ⟨i, rest, ts, h1, h2, h⟩ | ⟨h1, h⟩ | ⟨i, rest, ts, h1, h2, h⟩
    · exact .inr (.inr (.inl ⟨i, rest, ts, h1, h2, hp, h⟩))
    · exact .inr (.inr (.inr (.inl ⟨hp, h1, h⟩)))
    · exact .inr (.inr (.inr (.inr ⟨i, rest, ts, h1, h2, hp, h⟩)))

end Sys2Proof.Machine
end

