-- ==== Sys2Proof/Laws/PerInstr.lean ====
section
/-! SUPPORT. Per instruction: the encoding has the length of its format, and a command is the instruction of exactly one
command word (spec/30_encoding.md R100, R104, R108). -/

namespace Sys2Proof.Laws.Encoded

/-- An instruction's encoding has its format's fixed width, and it is a CTRL word exactly when the instruction is a
command (R100, R108). -/
def Statement (i : Sys2Proof.Instr) : Prop :=
  (Sys2Proof.encode i).length = i.format.bytes ∧
    (i.format = .ctrl ↔ ∃ c : Sys2Proof.Command, i.command = some c ∧ c.instr = i)

theorem desEcbEnc : Statement .desEcbEnc := ⟨rfl, fun _ => ⟨_, rfl, rfl⟩, fun _ => rfl⟩

theorem desEcbDec : Statement .desEcbDec := ⟨rfl, fun _ => ⟨_, rfl, rfl⟩, fun _ => rfl⟩

theorem tdes2EcbEnc : Statement .tdes2EcbEnc := ⟨rfl, fun _ => ⟨_, rfl, rfl⟩, fun _ => rfl⟩

theorem tdes2EcbDec : Statement .tdes2EcbDec := ⟨rfl, fun _ => ⟨_, rfl, rfl⟩, fun _ => rfl⟩

theorem tdes3EcbEnc : Statement .tdes3EcbEnc := ⟨rfl, fun _ => ⟨_, rfl, rfl⟩, fun _ => rfl⟩

theorem tdes3EcbDec : Statement .tdes3EcbDec := ⟨rfl, fun _ => ⟨_, rfl, rfl⟩, fun _ => rfl⟩

theorem desCbcEnc : Statement .desCbcEnc := ⟨rfl, fun _ => ⟨_, rfl, rfl⟩, fun _ => rfl⟩

theorem desCbcDec : Statement .desCbcDec := ⟨rfl, fun _ => ⟨_, rfl, rfl⟩, fun _ => rfl⟩

theorem tdes2CbcEnc : Statement .tdes2CbcEnc := ⟨rfl, fun _ => ⟨_, rfl, rfl⟩, fun _ => rfl⟩

theorem tdes2CbcDec : Statement .tdes2CbcDec := ⟨rfl, fun _ => ⟨_, rfl, rfl⟩, fun _ => rfl⟩

theorem tdes3CbcEnc : Statement .tdes3CbcEnc := ⟨rfl, fun _ => ⟨_, rfl, rfl⟩, fun _ => rfl⟩

theorem tdes3CbcDec : Statement .tdes3CbcDec := ⟨rfl, fun _ => ⟨_, rfl, rfl⟩, fun _ => rfl⟩

theorem rd32 (o : Sys2Proof.Offset) : Statement (.rd32 o) :=
  ⟨Sys2Proof.Machine.length_bytesBE _ _, nofun, fun ⟨_, h, _⟩ => nomatch h⟩

theorem wr32 (o : Sys2Proof.Offset) (d : Sys2Proof.Word) : Statement (.wr32 o d) :=
  ⟨Sys2Proof.Machine.length_bytesBE _ _, nofun, fun ⟨_, h, _⟩ => nomatch h⟩

end Sys2Proof.Laws.Encoded
end

