-- ==== Sys2Proof/Tests/Slice0.lean ====
section
/-! SUPPORT. The model's own tests. Expected values are the spec's: the tables of spec/30_encoding.md, the worked examples of
spec/42_chaining_modes.md and the vectors of spec/95_test_vectors.md. The last part holds one witness for each statement
that has hypotheses. -/

namespace Sys2Proof.Tests

open Sys2Proof Sys2Proof.Machine

/-! ## Helpers -/

/-- The next state of an outcome, if it is one. -/
def nextOf : Host.Outcome State Fault Refusal → Option State
  | .next s => some s
  | .fault _ => none
  | .refused _ => none

/-- The refusal of an outcome, if it is one. -/
def refusalOf : Host.Outcome State Fault Refusal → Option Refusal
  | .next _ => none
  | .fault _ => none
  | .refused r => some r

/-- The answer of the host port after an instruction. -/
def answer (i : Instr) (s : State) : Option Response := (nextOf (exec i s)).map State.resp

/-- STATUS after an instruction. -/
def statusAfter (i : Instr) (s : State) : Option Word := (nextOf (exec i s)).map State.statusWord

/-- The plaintext blocks of V-MODE-2BLK. -/
def p0 : Block := 0x6BC1BEE22E409F96#64
def p1 : Block := 0xE93D7E117393172A#64

/-- The key store with the Triple-DES keys of V-MODE-2BLK. -/
def keys : KeyStore :=
  ⟨0x01234567#32, 0x89ABCDEF#32, 0x23456789#32, 0xABCDEF01#32, 0x456789AB#32, 0xCDEF0123#32⟩

/-- The key store with the DES key of V-DES-KAT. -/
def desKeys : KeyStore := ⟨0x13345779#32, 0x9BBCDFF1#32, 0#32, 0#32, 0#32, 0#32⟩

/-- An IDLE core with 16-byte buffers, all of IN_BUF written, OUT_BUF[0..7] written. -/
def idleCore : State :=
  { State.resetWith 1 with
    key := keys
    keyLen := 8#32
    inLen := 16#32
    outLen := 16#32
    iv := ⟨0x00010203#32, 0x04050607#32⟩
    inBuf := Memory.writeBlocks [] 0 [p0, p1]
    outBuf := Memory.writeBlocks [] 0 [0xA5A5A5A5A5A5A5A5#64] }

/-- The same core, ready for a command of the cipher. -/
def readyCore : Cipher → State
  | .des => idleCore
  | .tdes2 => { idleCore with keyLen := 16#32 }
  | .tdes3 => { idleCore with keyLen := 24#32 }

/-- A core BUSY with two blocks, its command latched as R223 says. -/
def busyCore (c : Command) (ks : KeyStore) (b0 b1 : Block) : State :=
  { idleCore with
    phase := .busy
    inBuf := Memory.writeBlocks [] 0 [b0, b1]
    engine := { Engine.atReset with
      cmd := { dir := c.dir, mode := c.mode, n := 16#32, nblk := 2, key := ks.latch c.cipher }
      ch := 0x0001020304050607#64 } }

/-- The busy core, where the next step is a block step of block 1 in a CBC chain whose CH is `ch`. -/
def busyAt1 (c : Command) (ks : KeyStore) (ch b1 : Block) : State :=
  { busyCore c ks p0 b1 with engine := { (busyCore c ks p0 b1).engine with idx := 1, ch := ch } }

/-- The busy core at its completion step. -/
def busyAtEnd : State :=
  { busyCore ⟨.ecb, .des, .enc⟩ keys p0 p1 with
    engine := { (busyCore ⟨.ecb, .des, .enc⟩ keys p0 p1).engine with idx := 2 } }

/-- A busy core with one input to come and the host's move next. -/
def busyHost (input : Input) : State :=
  { busyCore ⟨.ecb, .des, .enc⟩ keys p0 p1 with inputs := [input], turns := [.host, .core] }

/-- The output block the next step writes at block `i`. -/
def stepOut (s : State) (i : Nat) : Option Block := (nextOf (step s)).bind fun t => t.outBuf.readBlock (8 * i)

/-! ## Well-formedness -/

/-- R72, R102: an offset with OFFSET[1:0] ≠ 00 is refused, for a read and for a write. -/
theorem test_wf_refuses_unaligned_rd32 : Instr.wf (.rd32 0x002#14) = false ∧ Instr.wf (.rd32 0x001#14) = false := by decide
theorem test_wf_refuses_unaligned_wr32 : Instr.wf (.wr32 0x021#14 0#32) = false := by decide
theorem test_wf_accepts : Instr.wf (.rd32 0x3FFC#14) = true ∧ Instr.wf (.wr32 0#14 0#32) = true ∧ Instr.wf .desCbcDec = true := by
  decide

/-! ## Decoding: one word for each constructor, its fields MODE, CIPHER, DIR, START written out as R101 lays them out, or a
record of the programs of spec/95_test_vectors.md -/

theorem test_decode_desEcbEnc : decodeTableWord 32 0b000000 = none ∧ decodeTableWord 32 0b000001 = some .desEcbEnc := by decide
theorem test_decode_desEcbDec : decodeTableWord 32 0b000011 = some .desEcbDec := by decide
theorem test_decode_tdes2EcbEnc : decodeTableWord 32 0b000101 = some .tdes2EcbEnc := by decide
theorem test_decode_tdes2EcbDec : decodeTableWord 32 0b000111 = some .tdes2EcbDec := by decide
theorem test_decode_tdes3EcbEnc : decodeTableWord 32 0b001001 = some .tdes3EcbEnc := by decide
theorem test_decode_tdes3EcbDec : decodeTableWord 32 0b001011 = some .tdes3EcbDec := by decide
theorem test_decode_desCbcEnc : decodeTableWord 32 0b010001 = some .desCbcEnc := by decide
theorem test_decode_desCbcDec : decodeTableWord 32 0b010011 = some .desCbcDec := by decide
theorem test_decode_tdes2CbcEnc : decodeTableWord 32 0b010101 = some .tdes2CbcEnc := by decide
theorem test_decode_tdes2CbcDec : decodeTableWord 32 0b010111 = some .tdes2CbcDec := by decide
theorem test_decode_tdes3CbcEnc : decodeTableWord 32 0b011001 = some .tdes3CbcEnc := by decide
theorem test_decode_tdes3CbcDec : decodeTableWord 32 0b011011 = some .tdes3CbcDec := by decide
/-- P2, transaction 18. -/
theorem test_decode_rd32 : decodeTableWord 48 0x200800000000 = some (.rd32 0x2008#14) := by decide
/-- P1, transaction 2. -/
theorem test_decode_wr32 : decodeTableWord 48 0x80249BBCDFF1 = some (.wr32 0x024#14 0x9BBCDFF1#32) := by decide

/-- V-VAL-ILL-CIPHER, -MODE2, -MODE3, -RSVD, -TOP: the reserved words are Illegal, each by its name (R105, R106). -/
theorem test_decode_refuses_reserved_words :
    [0x0D#32, 0x21#32, 0x31#32, 0x41#32, 0x80000001#32, 0x14#32].map (fun w => (decodeCtrl w).isOk) =
      [false, false, false, false, false, false] := by decide

/-- R102, U15: a record with bit 46 set is not a transaction. -/
theorem test_decode_refuses_reserved_record :
    decodeTableWord 48 0x400400000000 = none ∧ decodeTableWord 48 0xC02013345779 = none := by decide

/-- R102: bytes are read most significant first, and what follows an instruction is returned. -/
theorem test_decode_bytes :
    (decode .hosttxn [0x80#8, 0x20#8, 0x13#8, 0x34#8, 0x57#8, 0x79#8, 0xAA#8]).toOption =
      some (.wr32 0x020#14 0x13345779#32, [0xAA#8]) := by decide

/-! ## The pseudo-instructions (R110), against the records of P1, P2 and P4 -/

theorem test_expand_loadKey :
    Pseudo.expand (.loadKey (bytesBE 0x133457799BBCDFF1#64 8)) =
      [.txn 0x802013345779#48, .txn 0x80249BBCDFF1#48, .txn 0x800C00000008#48] := by decide
theorem test_expand_block :
    Pseudo.expand (.block .des .enc 0x0123456789ABCDEF#64) =
      [.txn 0x900001234567#48, .txn 0x900489ABCDEF#48, .txn 0x801000000008#48, .txn 0x801400000008#48,
       .txn 0x800000000001#48, .poll, .txn 0x200000000000#48, .txn 0x200400000000#48] := by decide
theorem test_expand_loadIv_and_cmd :
    Pseudo.expand (.loadIv 0x0001020304050607#64) ++ Pseudo.expand (.cmd ⟨.cbc, .tdes2, .enc⟩) =
      [.txn 0x804000010203#48, .txn 0x804404050607#48, .txn 0x800000000015#48] := by decide
theorem test_expand_loadIn :
    Pseudo.expand (.loadIn (bytesBE 0x6BC1BEE22E409F96#64 8)) =
      [.txn 0x90006BC1BEE2#48, .txn 0x90042E409F96#48, .txn 0x801000000008#48] := by decide
theorem test_expand_out_and_irq :
    Pseudo.expand (.fillOut 8 0xA5A5A5A5#32) ++ Pseudo.expand (.readOut 8) ++ Pseudo.expand .irqOn ++ Pseudo.expand .ack =
      [.txn 0xA000A5A5A5A5#48, .txn 0xA004A5A5A5A5#48, .txn 0x200000000000#48, .txn 0x200400000000#48,
       .txn 0x800800000001#48, .txn 0x800400000002#48] := by decide

/-- The last offset of the window, and the first above it, which is outside the core (R79; notes/assumptions/17.md). -/
theorem test_expand_window_edge :
    writeInput 0x3FFC 1#32 = .txn 0xBFFC00000001#48 ∧ writeInput 0x4000 1#32 = .bus true (Config.base + 0x4000) 1#32 ∧
      readInput 0x3FFC = .txn 0x3FFC00000000#48 ∧ readInput 0x4000 = .bus false (Config.base + 0x4000) 0#32 :=
  ⟨rfl, rfl, rfl, rfl⟩
/-- FILLOUT and READOUT of a length that is no multiple of 4 (notes/assumptions/18.md). -/
theorem test_expand_partial_word :
    Pseudo.expand (.fillOut 7 1#32) = [.txn 0xA00000000001#48] ∧ Pseudo.expand (.readOut 3) = [] := by decide

/-! ## The twelve commands: the issue by one write, and one block step against V-MODE-2BLK -/

/-- R223: a valid START of each command enters BUSY with DONE = 0 and ERR = 0. -/
theorem test_issue_status :
    ∀ row ∈ commandTable, statusAfter row.2.1 { readyCore row.2.2.cipher with done := true, err := 4#3 } = some 1#32 := by
  decide

theorem test_desEcbEnc_block :
    stepOut (busyCore ⟨.ecb, .des, .enc⟩ desKeys p0 p1) 0 = some 0x9222366049A004A4#64 := by decide +kernel
theorem test_desEcbDec_block :
    stepOut (busyCore ⟨.ecb, .des, .dec⟩ desKeys 0x85E813540F0AB405#64 p1) 0 = some 0x0123456789ABCDEF#64 := by decide +kernel
theorem test_tdes2EcbEnc_block :
    stepOut (busyCore ⟨.ecb, .tdes2, .enc⟩ keys p0 p1) 0 = some 0x06EDE3D82884090A#64 := by decide +kernel
theorem test_tdes2EcbDec_block :
    stepOut (busyCore ⟨.ecb, .tdes2, .dec⟩ keys 0x06EDE3D82884090A#64 p1) 0 = some p0 := by decide +kernel
theorem test_tdes3EcbEnc_block :
    stepOut (busyCore ⟨.ecb, .tdes3, .enc⟩ keys p0 p1) 0 = some 0x714772F339841D34#64 := by decide +kernel
/-- The other reading of the source, rejected in spec/90_conflicts.md C1, would give 940F8BFDF59D103F. -/
theorem test_tdes3EcbDec_block :
    stepOut (busyCore ⟨.ecb, .tdes3, .dec⟩ keys 0x714772F339841D34#64 p1) 0 = some p0 := by decide +kernel
theorem test_desCbcEnc_block :
    stepOut (busyAt1 ⟨.cbc, .des, .enc⟩ desKeys 0x6A5E353E352BC97E#64 p1) 1 = some 0x6D7C4BB68AA19D1F#64 := by decide +kernel
theorem test_desCbcDec_block :
    stepOut (busyAt1 ⟨.cbc, .des, .dec⟩ desKeys 0x6A5E353E352BC97E#64 0x6D7C4BB68AA19D1F#64) 1 = some p1 := by decide +kernel
theorem test_tdes2CbcEnc_block :
    stepOut (busyAt1 ⟨.cbc, .tdes2, .enc⟩ keys 0xEBBBF774ADB48EB5#64 p1) 1 = some 0x471016D5FF74521D#64 := by decide +kernel
theorem test_tdes2CbcDec_block :
    stepOut (busyAt1 ⟨.cbc, .tdes2, .dec⟩ keys 0xEBBBF774ADB48EB5#64 0x471016D5FF74521D#64) 1 = some p1 := by decide +kernel
theorem test_tdes3CbcEnc_block :
    stepOut (busyAt1 ⟨.cbc, .tdes3, .enc⟩ keys 0xDF4FB48A5C3414FA#64 p1) 1 = some 0x340A1553EFAE8431#64 := by decide +kernel
theorem test_tdes3CbcDec_block :
    stepOut (busyAt1 ⟨.cbc, .tdes3, .dec⟩ keys 0xDF4FB48A5C3414FA#64 0x340A1553EFAE8431#64) 1 = some p1 := by decide +kernel

/-- V-DES-ROUND: round 1 of V-DES-KAT. -/
theorem test_des_round :
    perm 48 tableE 0xF0AAF0AA#32 = 0x7A15557A1555#48 ∧ sboxLayer 0x6117BA866527#48 = 0x5C82B597#32 ∧
      roundF 0xF0AAF0AA#32 0x1B02EFFC7072#48 = 0x234AA9BB#32 := by decide +kernel
/-- V-DES-KS: the first and the last subkey. -/
theorem test_des_keySchedule :
    keyC0 0x133457799BBCDFF1#64 = 0xF0CCAAF#28 ∧ keyD0 0x133457799BBCDFF1#64 = 0x556678F#28 ∧
      (keySchedule 0x133457799BBCDFF1#64)[0]? = some 0x1B02EFFC7072#48 ∧
      (keySchedule 0x133457799BBCDFF1#64)[15]? = some 0xCB3D8B0E17F5#48 := by decide +kernel

/-! ## RD32 and WR32, against V-HOST and V-VAL -/

/-- V-HOST-RESET. -/
theorem test_rd32_after_reset :
    [0x000#14, 0x004#14, 0x008#14, 0x00C#14, 0x010#14, 0x014#14, 0x020#14, 0x034#14, 0x040#14, 0x044#14].all
      (fun o => answer (.rd32 o) State.reset == some (.data 0#32)) = true := by decide
/-- V-HOST-UNINIT, V-HOST-MISALIGN. -/
theorem test_rd32_faults :
    (nextOf (exec (.rd32 0x1000#14) State.reset)).map State.faults = some ⟨false, false, true⟩ ∧
      (nextOf (exec (.rd32 0x002#14) State.reset)).map State.faults = some ⟨true, false, false⟩ := by decide
/-- V-HOST-KEYLANE, V-HOST-RAZ. -/
theorem test_wr32_keylane :
    ((nextOf (exec (.wr32 0x020#14 0x13345779#32) State.reset)).map fun s => wordByte s.key.key0 0) = some 0x13#8 ∧
      nextOf (exec (.wr32 0x018#14 0x12345678#32) State.reset) = some { State.reset with resp := .accepted } := by decide
/-- V-VAL: the five codes and their priority, on a core whose buffers hold 4096 bytes. -/
theorem test_wr32_start_errors :
    let s (keyLen inLen outLen : Word) : State :=
      { State.reset with keyLen := keyLen, inLen := inLen, outLen := outLen }
    statusAfter .desEcbEnc (s 8#32 16#32 8#32) = some 0x102#32 ∧
    statusAfter .desEcbEnc (s 8#32 12#32 8#32) = some 0x102#32 ∧
    statusAfter .desEcbEnc (s 0#32 12#32 12#32) = some 0x202#32 ∧
    statusAfter .tdes3CbcEnc (s 8#32 16#32 16#32) = some 0x302#32 ∧
    statusAfter .tdes2EcbEnc (s 8#32 0x1008#32 0x1008#32) = some 0x302#32 ∧
    statusAfter (.wr32 0x000#14 0x0D#32) (s 8#32 16#32 8#32) = some 0x402#32 ∧
    statusAfter (.wr32 0x000#14 0x80000001#32) (s 8#32 16#32 16#32) = some 0x402#32 ∧
    statusAfter .desEcbEnc (s 8#32 0x1008#32 0x1008#32) = some 0x502#32 ∧
    statusAfter .desEcbEnc (s 8#32 0x1000#32 0x1000#32) = some 0x001#32 ∧
    statusAfter .desCbcEnc (s 8#32 0#32 0#32) = some 0x001#32 := by decide
/-- V-HOST-ACK, V-HOST-ACK2: only bit 1 of a STATUS write clears. -/
theorem test_ack :
    let s : State := { State.reset with done := true, err := 1#3 }
    statusAfter (.wr32 0x004#14 0x00000001#32) s = some 0x102#32 ∧
      statusAfter (.wr32 0x004#14 0xFFFFFFFF#32) s = some 0#32 := by decide

/-! ## Witnesses: a state and operands that meet all hypotheses of a statement together, and each clause at its boundaries -/

theorem idleCore_inv : idleCore.Inv :=
  ⟨by decide, by decide, by decide, by decide, by decide, by decide, by decide, by decide⟩

theorem busyCore_inv : (busyCore ⟨.cbc, .tdes2, .dec⟩ keys p0 p1).Inv :=
  ⟨by decide, by decide, by decide, by decide, by decide, by decide, by decide, by decide⟩

theorem busyAtEnd_inv : busyAtEnd.Inv :=
  ⟨by decide, by decide, by decide, by decide, by decide, by decide, by decide, by decide⟩

/-- DecodeExactlyInvertsEncode: both sides, for each format, with bytes after the instruction. -/
theorem witness_decode_encode :
    (decode .ctrl (encode .tdes3CbcDec ++ [0x55#8])).toOption = some (.tdes3CbcDec, [0x55#8]) ∧
      (decode .hosttxn (encode (.wr32 0x3FFF#14 0xFFFFFFFF#32) ++ [])).toOption =
        some (.wr32 0x3FFF#14 0xFFFFFFFF#32, []) := by decide

theorem witness_StepPerformsPendingRecord :
    (let s : State := { idleCore with inputs := [.txn 0x802013345779#48] }
     s.inputs = .txn 0x802013345779#48 :: [] ∧ s.phase = .idle) ∧
    (let s := busyHost (.txn 0x000400000000#48)
     s.inputs = .txn 0x000400000000#48 :: [] ∧ s.phase = .busy ∧ s.turns = .host :: [.core]) ∧
    (decodeTxn 0x802013345779#48).toOption = some (.wr32 0x020#14 0x13345779#32) ∧
    (decodeTxn 0x000400000000#48).toOption = some (.rd32 0x004#14) := by decide

theorem witness_PlacedEncodingIsPerformedNext :
    decodeTableWord 32 0x11 = some .desCbcEnc ∧ decodeTableWord 48 0x201800000000 = some (.rd32 0x2018#14) := by decide

theorem witness_StepStopsOnlyOnNonTransactions :
    refusalOf (step { idleCore with inputs := [.txn 0x400000000000#48] }) = some (.notATransaction .reservedRecordBit) ∧
      refusalOf (step { idleCore with inputs := [.txn 0x000400000001#48] }) = some (.notATransaction .readWithData) := by decide

theorem witness_ReservedRecordBitIsRefused :
    let s : State := { idleCore with inputs := [.txn 0xC02000000000#48, .poll] }
    s.phase = .idle ∧ s.inputs = .txn 0xC02000000000#48 :: [.poll] ∧ (0xC02000000000#48).getLsbD 46 = true := by decide

theorem witness_PollRepeatsUntilBusyIsClear :
    (let s : State := { idleCore with inputs := [.poll] }
     s.inputs = .poll :: [] ∧ s.phase = .idle) ∧
    (let s := busyHost .poll
     s.inputs = .poll :: [] ∧ s.phase = .busy ∧ s.turns = .host :: [.core]) := by decide

/-- The last offset of the window and the first address above it, for every BASE, in an IDLE core and in a BUSY one. -/
theorem witness_WindowSelectsItsAddresses :
    (∃ s : State, s.phase = .idle ∧ s.inputs = .bus true (busAddress 0x3FFC#14) 1#32 :: []) ∧
    (∃ s : State, s.phase = .idle ∧ s.inputs = .bus false (busAddress 0x000#14) 0#32 :: []) ∧
    (∃ s : State, s.phase = .busy ∧ s.turns = .host :: [.core] ∧ s.inputs = .bus true (busAddress 0x020#14) 1#32 :: []) ∧
    (∃ s : State, s.phase = .busy ∧ s.turns = .host :: [.core] ∧ s.inputs = .bus false (busAddress 0x004#14) 0#32 :: []) ∧
    (∃ s : State, s.phase = .idle ∧ s.inputs = .bus false (Config.base + 0x4000) 0#32 :: [] ∧
      (Config.base + 0x4000 < Config.base ∨ Config.base + 0x4000 ≤ Config.base + 0x4000)) ∧
    (∃ s : State, s.phase = .busy ∧ s.turns = .host :: [.core] ∧ s.inputs = .bus true (Config.base + 0x4000) 0#32 :: []) :=
  ⟨⟨{ idleCore with inputs := [.bus true (busAddress 0x3FFC#14) 1#32] }, rfl, rfl⟩,
    ⟨{ idleCore with inputs := [.bus false (busAddress 0x000#14) 0#32] }, rfl, rfl⟩,
    ⟨busyHost (.bus true (busAddress 0x020#14) 1#32), rfl, rfl, rfl⟩,
    ⟨busyHost (.bus false (busAddress 0x004#14) 0#32), rfl, rfl, rfl⟩,
    ⟨{ idleCore with inputs := [.bus false (Config.base + 0x4000) 0#32] }, rfl, rfl, .inr (Nat.le_refl _)⟩,
    ⟨busyHost (.bus true (Config.base + 0x4000) 0#32), rfl, rfl, rfl⟩⟩

/-- Every aligned offset at a boundary of a clause, in a core of 16-byte buffers. -/
theorem witness_aligned_offsets :
    [0x000#14, 0x004#14, 0x008#14, 0x00C#14, 0x010#14, 0x014#14, 0x020#14, 0x034#14, 0x040#14, 0x044#14, 0x1000#14,
      0x100C#14, 0x2000#14, 0x200C#14, 0x018#14, 0x01C#14, 0x038#14, 0x03C#14, 0x048#14, 0x0FFC#14, 0x1010#14, 0x1FFC#14,
      0x2010#14, 0x2FFC#14, 0x3000#14, 0x3FFC#14].all offsetAligned = true := by decide

theorem witness_ReadReturnsTheTablesValue :
    (idleCore.phase = .busy → (0x100C#14 : Offset) = 0x004#14) ∧
    (let s := busyHost .poll
     s.phase = .busy ∧ (s.phase = .busy → (0x004#14 : Offset) = 0x004#14)) ∧
    (0x034#14 : Offset).toNat = 0x020 + 4 * 5 ∧ (0x044#14 : Offset).toNat = 0x040 + 4 * 1 ∧
    4 * 3 < idleCore.bufBytes ∧ (0x100C#14 : Offset).toNat = 0x1000 + 4 * 3 ∧
    idleCore.inBuf.read 12 = some 0x73#8 ∧ idleCore.inBuf.read 13 = some 0x93#8 ∧
    idleCore.inBuf.read 14 = some 0x17#8 ∧ idleCore.inBuf.read 15 = some 0x2A#8 ∧
    4 * 0 < idleCore.bufBytes ∧ (0x2000#14 : Offset).toNat = 0x2000 + 4 * 0 ∧
    idleCore.outBuf.read 0 = some 0xA5#8 ∧ idleCore.outBuf.read 1 = some 0xA5#8 ∧
    idleCore.outBuf.read 2 = some 0xA5#8 ∧ idleCore.outBuf.read 3 = some 0xA5#8 := by decide

/-- The boundary offsets of R71's reserved ranges, in a core of 16-byte buffers and in one of 4096-byte buffers. -/
theorem witness_reserved_offsets :
    (∀ a ∈ [0x0018, 0x001F, 0x0038, 0x003F, 0x0048, 0x0FFF, 0x1010, 0x1FFF, 0x2010, 0x2FFF, 0x3000, 0x3FFF],
      reservedOffset 16 a) ∧
    (∀ a ∈ [0x0014, 0x0020, 0x0037, 0x0040, 0x0047, 0x1000, 0x100F, 0x2000, 0x200F], ¬ reservedOffset 16 a) ∧
    ¬ reservedOffset 4096 0x1FFF ∧ ¬ reservedOffset 4096 0x2FFF ∧ reservedOffset 4096 0x3000 := by decide

theorem witness_ReadOfUnmarkedByteRecordsUninitRead :
    (let s : State := { idleCore with inBuf := Memory.write (Memory.write (Memory.write [] 12 0#8) 13 0#8) 14 0#8 }
     s.phase = .idle ∧ 4 * 3 < s.bufBytes ∧ 3 < 4 ∧ (0x100C#14 : Offset).toNat = 0x1000 + 4 * 3 ∧
       s.inBuf.read (4 * 3 + 3) = none) ∧
    (idleCore.phase = .idle ∧ 4 * 2 < idleCore.bufBytes ∧ 0 < 4 ∧ (0x2008#14 : Offset).toNat = 0x2000 + 4 * 2 ∧
      idleCore.outBuf.read (4 * 2 + 0) = none) := by decide

/-- ReadChangesNoState: a read that returns a value, and one that does not. -/
theorem witness_ReadChangesNoState :
    answer (.rd32 0x1000#14) idleCore = some (.data 0x6BC1BEE2#32) ∧
      answer (.rd32 0x2008#14) idleCore = some .noValue := by decide

theorem witness_WriteHasTheTablesEffect :
    idleCore.phase = .idle ∧ offsetAligned 0x008#14 = true ∧ offsetAligned 0x100C#14 = true ∧
    4 * 3 < idleCore.bufBytes ∧ (0x100C#14 : Offset).toNat = 0x1000 + 4 * 3 ∧
    (0x200C#14 : Offset).toNat = 0x2000 + 4 * 3 ∧ reservedOffset idleCore.bufBytes (0x1010#14 : Offset).toNat := by decide

theorem witness_CtrlWriteWithoutStartOnlyStores :
    idleCore.phase = .idle ∧ (0x14#32).getLsbD 0 = false ∧ (0xFFFFFFFE#32).getLsbD 0 = false := by decide

theorem witness_AckIsTheOnlyClearBesideStartAndReset :
    (idleCore.phase = .idle ∧ (0x2#32).getLsbD 1 = true ∧ idleCore.done = false ∧
      (nextOf (exec (.wr32 0x004#14 0x2#32) idleCore)).isSome = true) ∧
    (let s : State := { idleCore with done := true, err := 3#3, inputs := [.txn 0x800400000002#48] }
     s.Inv ∧ s.done = true ∧ s.err ≠ 0#3 ∧ (nextOf (step s)).map State.done = some false ∧
       (nextOf (step s)).map State.err = some 0#3) :=
  ⟨by decide, ⟨by decide, by decide, by decide, by decide, by decide, by decide, by decide, by decide⟩, by decide, by decide,
    by decide, by decide⟩

theorem witness_ReadReturnsTheLatestWrite :
    idleCore.phase = .idle ∧ idleCore.bufBytes = 16 ∧
    [0x00C#14, 0x014#14, 0x020#14, 0x034#14, 0x040#14, 0x044#14, 0x1000#14, 0x100C#14, 0x2000#14, 0x200C#14].all
      (fun o => offsetAligned o && decide ((0x00C ≤ o.toNat ∧ o.toNat ≤ 0x014) ∨ (0x020 ≤ o.toNat ∧ o.toNat ≤ 0x037) ∨
        (0x040 ≤ o.toNat ∧ o.toNat ≤ 0x047) ∨ (0x1000 ≤ o.toNat ∧ o.toNat < 0x1000 + 16) ∨
        (0x2000 ≤ o.toNat ∧ o.toNat < 0x2000 + 16))) = true := by decide

/-- WriteFrame: in and beside the four bytes of a write to the last word of IN_BUF; each way a CTRL write issues nothing, and a
CTRL write that does issue. -/
theorem witness_WriteFrame :
    (0x100C#14 : Offset).toNat ≠ 0x1000 + 11 / 4 * 4 ∧ (0x100C#14 : Offset).toNat = 0x1000 + 12 / 4 * 4 ∧
      (0x100C#14 : Offset).toNat = 0x1000 + 15 / 4 * 4 ∧ idleCore.bufBytes ≤ 16 ∧
      (0x024#14 : Offset) ≠ 0x020#14 ∧ (0x024#14 : Offset) ≠ 0x028#14 ∧ (0x044#14 : Offset) ≠ 0x040#14 ∧
      (busyHost .poll).phase = .busy ∧ (0x10#32).getLsbD 0 = false ∧
      expectedCode 0x0D#32 idleCore.keyLen idleCore.inLen idleCore.outLen idleCore.bufBytes ≠ 0#3 ∧
      expectedCode 0x11#32 idleCore.keyLen idleCore.inLen idleCore.outLen idleCore.bufBytes = 0#3 ∧
      (0x100C#14 : Offset).toNat % 4 = 0 ∧ idleCore.phase = .idle := by decide

theorem witness_UnalignedOrNarrowAccessIsRefused :
    (0x001#14 : Offset).toNat % 4 ≠ 0 ∧ (0x3FFF#14 : Offset).toNat % 4 ≠ 0 ∧
    (let s : State := { idleCore with inputs := [.narrow .w8] }
     s.phase = .idle ∧ s.inputs = .narrow .w8 :: []) ∧
    (let s := busyHost (.narrow .w64)
     s.phase = .busy ∧ s.inputs = .narrow .w64 :: [] ∧ s.turns = .host :: [.core]) := by decide

theorem witness_BusyHazard :
    (busyCore ⟨.ecb, .des, .enc⟩ keys p0 p1).phase = .busy ∧ (0x004#14 : Offset).toNat % 4 = 0 ∧
      (0x3FFC#14 : Offset).toNat % 4 = 0 ∧ (0x3FFC#14 : Offset) ≠ 0x004#14 ∧
      Instr.command .desCbcDec = some ⟨.cbc, .des, .dec⟩ := by decide

theorem witness_FaultsOnlyGrow :
    let s : State := { idleCore with faults := ⟨true, false, true⟩, inputs := [.poll] }
    (nextOf (step s)).isSome = true ∧ s.inputs.head? ≠ some .reset ∧ s.faults.has .hostBusError = true ∧
      s.faults.has .uninitRead = true := by decide

/-- NewFaultsHaveTheirCauses: a step that records each, from a state in which none is recorded, by each kind of cause. -/
theorem witness_NewFaultsHaveTheirCauses :
    idleCore.faults = ⟨false, false, false⟩ ∧ (busyHost .poll).faults = ⟨false, false, false⟩ ∧
    (nextOf (step (busyHost (.txn 0x802000000000#48)))).map State.faults = some ⟨false, true, false⟩ ∧
    (nextOf (step (busyHost (.cmd 0x1#32)))).map State.faults = some ⟨false, true, false⟩ ∧
    (nextOf (step { idleCore with inputs := [.txn 0x000200000000#48] })).map State.faults = some ⟨true, false, false⟩ ∧
    (nextOf (step { idleCore with inputs := [.txn 0x802100000000#48] })).map State.faults = some ⟨true, false, false⟩ ∧
    (nextOf (step { idleCore with inputs := [.narrow .w16] })).map State.faults = some ⟨true, false, false⟩ ∧
    (nextOf (step (busyHost (.narrow .w8)))).map State.faults = some ⟨true, false, false⟩ ∧
    (nextOf (step { idleCore with inputs := [.txn 0x200C00000000#48] })).map State.faults = some ⟨false, false, true⟩ ∧
    (nextOf (step { idleCore with inBuf := [], inputs := [.txn 0x100000000000#48] })).map State.faults =
      some ⟨false, false, true⟩ ∧
    (nextOf (step { busyCore ⟨.ecb, .des, .enc⟩ keys p0 p1 with inBuf := [] })).map State.faults =
      some ⟨false, false, true⟩ := by decide

/-- FailedStartReportsTheFirstFailedCheck: a START word for each code, in a core of 16-byte buffers. -/
theorem witness_FailedStartReportsTheFirstFailedCheck :
    idleCore.phase = .idle ∧ (0x0D#32).getLsbD 0 = true ∧ (0x01#32).getLsbD 0 = true ∧ (0x19#32).getLsbD 0 = true ∧
    expectedCode 0x0D#32 8#32 16#32 8#32 16 = 4#3 ∧ expectedCode 0x01#32 8#32 12#32 8#32 16 = 1#3 ∧
    expectedCode 0x01#32 0#32 12#32 12#32 16 = 2#3 ∧ expectedCode 0x19#32 8#32 16#32 16#32 16 = 3#3 ∧
    expectedCode 0x01#32 8#32 24#32 24#32 16 = 5#3 ∧ expectedCode 0x01#32 8#32 16#32 16#32 16 = 0#3 ∧
    expectedCode 0x01#32 8#32 0#32 0#32 16 = 0#3 := by decide

theorem witness_CommandIsTheWriteOfItsWord :
    (0x0000001B#32, Instr.tdes3CbcDec, Command.mk .cbc .tdes3 .dec) ∈ commandTable := by decide

/-- ValidCommandIsIssued: every row, with the whole buffer and with length 0. -/
theorem witness_ValidCommandIsIssued :
    ∀ row ∈ commandTable, (readyCore row.2.2.cipher).Ready row.2.2 ∧
      ({ readyCore row.2.2.cipher with inLen := 0#32, outLen := 0#32 }).Ready row.2.2 := by decide

theorem witness_EcbStepComputesItsBlock :
    let s := busyCore ⟨.ecb, .tdes3, .dec⟩ keys p0 p1
    s.CoreMoves ∧ s.engine.cmd.mode = .ecb ∧ s.engine.idx < s.engine.cmd.nblk ∧
      s.inBuf.readBlock (8 * s.engine.idx) = some p0 := by decide

/-- Both directions, the last block, and a step that the interleaving gives to the core. -/
theorem witness_CbcStepComputesItsBlock :
    ∀ dir ∈ [Dir.enc, Dir.dec],
      let s : State := { busyAt1 ⟨.cbc, .des, dir⟩ keys p0 p1 with inputs := [.poll], turns := [.core] }
      s.CoreMoves ∧ s.engine.cmd.mode = .cbc ∧ s.engine.cmd.dir = dir ∧ s.engine.idx < s.engine.cmd.nblk ∧
        s.inBuf.readBlock (8 * s.engine.idx) = some p1 := by decide

theorem witness_BlockStepStopsAtUnmarkedByte :
    let s : State := { busyCore ⟨.ecb, .des, .enc⟩ keys p0 p1 with inBuf := Memory.writeBlocks [] 8 [p1] }
    s.CoreMoves ∧ s.engine.idx < s.engine.cmd.nblk ∧ 0 < 8 ∧ 7 < 8 ∧ s.inBuf.read (8 * s.engine.idx + 0) = none ∧
      s.inBuf.read (8 * s.engine.idx + 7) = none := by decide

/-- After the last block, and at once for a command of length 0. -/
theorem witness_CompletionStep :
    (busyAtEnd.CoreMoves ∧ busyAtEnd.engine.idx = busyAtEnd.engine.cmd.nblk) ∧
    (let s : State := { idleCore with phase := .busy }
     s.CoreMoves ∧ s.engine.idx = s.engine.cmd.nblk) := by decide

theorem witness_BusyCommandCompletesUnderEveryInterleaving :
    let s : State := { busyCore ⟨.cbc, .tdes2, .dec⟩ keys p0 p1 with
      inputs := [.txn 0x000400000000#48, .poll], turns := [.host, .core, .host] }
    s.Inv ∧ s.phase = .busy ∧ s.inputs.all Input.readsStatus = true ∧
      s.inBuf.readBlocks (8 * s.engine.idx) (s.engine.cmd.nblk - s.engine.idx) = some [p0, p1] :=
  ⟨⟨by decide, by decide, by decide, by decide, by decide, by decide, by decide, by decide⟩, by decide, by decide, by decide⟩

/-- CommandRunsAsTheRunFunction: for each row, a state whose check fails and a state whose checks pass. -/
theorem witness_CommandRunsAsTheRunFunction :
    ∀ row ∈ commandTable,
      let s := readyCore row.2.2.cipher
      s.phase = .idle ∧ s.inputs = [] ∧
      expectedCode row.1 s.keyLen s.inLen s.outLen s.bufBytes = 0#3 ∧
      s.inBuf.readBlocks 0 (s.inLen.toNat / 8) = some [p0, p1] ∧
      expectedCode row.1 7#32 s.inLen s.outLen s.bufBytes = 3#3 := by decide

theorem witness_CommandsWriteNoOperand :
    (Instr.command .desEcbEnc = some ⟨.ecb, .des, .enc⟩ ∧ (nextOf (exec .desEcbEnc idleCore)).isSome = true) ∧
    busyAtEnd.Inv ∧ busyAtEnd.CoreMoves ∧ ∃ t, step busyAtEnd = .next t :=
  ⟨by decide, busyAtEnd_inv, by decide, _, rfl⟩

theorem witness_ResetAbandonsTheCommand :
    (let s : State := { idleCore with inputs := [.reset, .poll] }
     s.inputs = .reset :: [.poll] ∧ (s.phase = .idle ∨ s.turns.head? = some .host)) ∧
    (let s := busyHost .reset
     s.phase = .busy ∧ s.inputs = .reset :: [] ∧ (s.phase = .idle ∨ s.turns.head? = some .host)) := by decide

/-- IrqIsDoneAndEnabled: a failing START, a valid one and an IRQ_EN write, each with a next state (V-HOST-IRQ). -/
theorem witness_IrqIsDoneAndEnabled :
    let s : State := { idleCore with ie := true }
    s.phase = .idle ∧ (0x0D#32).getLsbD 0 = true ∧
      expectedCode 0x0D#32 s.keyLen s.inLen s.outLen s.bufBytes ≠ 0#3 ∧
      (nextOf (exec (.wr32 0x000#14 0x0D#32) s)).map State.irq = some true ∧
      expectedCode 0x11#32 s.keyLen s.inLen s.outLen s.bufBytes = 0#3 ∧
      (nextOf (exec (.wr32 0x000#14 0x11#32) s)).map State.irq = some false ∧
      (nextOf (exec (.wr32 0x008#14 0xFFFFFFFE#32) { s with done := true })).map State.irq = some false := by decide

/-- EveryStepKeepsTheInvariant: an IDLE step and the completion step. -/
theorem witness_EveryStepKeepsTheInvariant :
    (idleCore.Inv ∧ ∃ t, step idleCore = .next t) ∧ (busyAtEnd.Inv ∧ ∃ t, step busyAtEnd = .next t) :=
  ⟨⟨idleCore_inv, _, rfl⟩, busyAtEnd_inv, _, rfl⟩

theorem witness_InternalRegistersAreUnobservable :
    idleCore.phase = .idle ∧ busyAtEnd.engine ≠ idleCore.engine := by decide

/-- V-DES-PARITY: the key of V-DES-KAT and the same key with every parity bit flipped. -/
theorem witness_ParityBitsDoNotMatter :
    (0x133457799BBCDFF1#64 &&& 0xFEFEFEFEFEFEFEFE#64) = (0x123556789ABDDEF0#64 &&& 0xFEFEFEFEFEFEFEFE#64) ∧
      (0x133457799BBCDFF1#64) ≠ 0x123556789ABDDEF0#64 := by decide

theorem witness_StageSequencerComputesTheCipher :
    (busyCore ⟨.ecb, .des, .enc⟩ keys p0 p1).engine.cmd.key.cipher = .des := by decide

/-- V-DIFF: block 1 of three changed, at the first, the middle and the last index of an output. -/
theorem witness_DiffusionOfOneChangedBlock :
    let xs : List Block := [0x4E6F772069732074#64, 0x68652074696D6520#64, 0x666F7220616C6C20#64]
    1 < xs.length ∧ xs[1]? ≠ some 0x69652074696D6520#64 ∧ 0 < xs.length ∧ 2 < xs.length := by decide

theorem witness_CbcDecipherErrorSpansTwoBlocks : (0 : Nat) ≠ 1 ∧ (0 : Nat) ≠ 1 + 1 ∧ (3 : Nat) ≠ 1 ∧ (3 : Nat) ≠ 1 + 1 := by
  decide

end Sys2Proof.Tests
end

/-! # State family: rules of the state's operations -/

namespace Sys2Proof.Machine

/-! ## Buffers: a byte with no mark leaves its word and its block without a value -/

theorem Memory.readWord_eq_none {m : Memory} {a j : Nat} (hj : j < 4) (h : m.read (a + j) = none) :
    m.readWord a = none := by
  cases hw : m.readWord a with
  | none => rfl
  | some w =>
    unfold Memory.readWord at hw
    split at hw
    · next h0 h1 h2 h3 =>
      have hj' : j = 0 ∨ j = 1 ∨ j = 2 ∨ j = 3 := by omega
      rcases hj' with rfl | rfl | rfl | rfl <;> simp_all
    · cases hw

theorem Memory.readBlock_eq_none {m : Memory} {a j : Nat} (hj : j < 8) (h : m.read (a + j) = none) :
    m.readBlock a = none := by
  unfold Memory.readBlock
  by_cases hlt : j < 4
  · rw [Memory.readWord_eq_none hlt h]
  · have hlo : m.readWord (a + 4) = none :=
      Memory.readWord_eq_none (j := j - 4) (by omega) (by rwa [show a + 4 + (j - 4) = a + j by omega])
    rw [hlo]
    cases m.readWord a <;> rfl

/-! ## Faults -/

/-- Recording a reason adds it and keeps every other (R320). -/
@[simp] theorem FaultSet.has_record (f : FaultSet) (x y : Fault) :
    (f.record y).has x = (decide (x = y) || f.has x) := by
  cases x <;> cases y <;> simp [FaultSet.record, FaultSet.has]

/-! ## START: the validation and the expected code of the statements -/

/-- A CTRL word is its five fields (R101). -/
theorem ctrlWord_eq_fields (w : Word) :
    w = w.extractLsb' 6 26 ++ w.extractLsb' 4 2 ++ w.extractLsb' 2 2 ++ w.extractLsb' 1 1 ++ w.extractLsb' 0 1 := by
  rw [BitVec.extractLsb'_append_extractLsb'_eq_extractLsb' (show 6 = 4 + 2 from rfl),
    BitVec.extractLsb'_append_extractLsb'_eq_extractLsb' (show 4 = 2 + 2 from rfl),
    BitVec.extractLsb'_append_extractLsb'_eq_extractLsb' (show 2 = 1 + 1 from rfl),
    BitVec.extractLsb'_append_extractLsb'_eq_extractLsb' (show 1 = 0 + 1 from rfl)]
  exact BitVec.extractLsb'_eq_self.symm

theorem bits_of_ctrlMode {w : Word} {m : Mode} (h : ctrlMode w = some m) : w.extractLsb' 4 2 = m.bits := by
  unfold ctrlMode at h
  split at h
  · next hb => cases h; exact hb
  · split at h
    · next hb => cases h; exact hb
    · cases h

theorem bits_of_ctrlCipher {w : Word} {c : Cipher} (h : ctrlCipher w = some c) : w.extractLsb' 2 2 = c.bits := by
  unfold ctrlCipher at h
  split at h
  · next hb => cases h; exact hb
  · split at h
    · next hb => cases h; exact hb
    · split at h
      · next hb => cases h; exact hb
      · cases h

theorem extractLsb'_one (w : Word) (i : Nat) : w.extractLsb' i 1 = BitVec.ofBool (w.getLsbD i) := by
  ext j hj
  obtain rfl : j = 0 := by omega
  simp

theorem bits_ctrlDir (w : Word) : w.extractLsb' 1 1 = (ctrlDir w).bits := by
  rw [extractLsb'_one]
  unfold ctrlDir
  cases w.getLsbD 1 <;> rfl

theorem decodeCtrl_word (c : Command) : decodeCtrl c.word = .ok c := by
  obtain ⟨m, T, d⟩ := c
  cases m <;> cases T <;> cases d <;> rfl

/-- The command words are exactly the words that decode (R104, R105). -/
theorem decodeCtrl_eq_ok_iff (w : Word) (c : Command) : decodeCtrl w = .ok c ↔ w = c.word := by
  refine ⟨fun h => ?_, fun h => h ▸ decodeCtrl_word c⟩
  unfold decodeCtrl at h
  split at h
  · cases h
  next hstart =>
    split at h
    · cases h
    next hrsvd =>
      split at h
      · cases h
      · cases h
      next m T hm hT =>
        cases h
        have hs : w.extractLsb' 0 1 = 1#1 := by
          rw [extractLsb'_one, show w.getLsbD 0 = true from Bool.not_eq_false _ ▸ hstart]; rfl
        calc
          w = _ := ctrlWord_eq_fields w
          _ = Command.word ⟨m, T, ctrlDir w⟩ := by
            rw [not_not.1 hrsvd, bits_of_ctrlMode hm, bits_of_ctrlCipher hT, bits_ctrlDir, hs]; rfl

theorem mem_commandTable (c : Command) : (c.word, c.instr, c) ∈ commandTable := by
  obtain ⟨m, T, d⟩ := c
  cases m <;> cases T <;> cases d <;> decide

theorem word_of_mem_commandTable : ∀ row ∈ commandTable, row.1 = row.2.2.word := by decide

theorem mem_commandTable_word_iff (w : Word) : (∃ row ∈ commandTable, row.1 = w) ↔ ∃ c, decodeCtrl w = .ok c := by
  constructor
  · rintro ⟨row, hrow, rfl⟩
    exact ⟨row.2.2, (decodeCtrl_eq_ok_iff _ _).2 (word_of_mem_commandTable row hrow)⟩
  · rintro ⟨c, hc⟩
    exact ⟨_, mem_commandTable c, ((decodeCtrl_eq_ok_iff w c).1 hc).symm⟩

/-- KEY_SIZE of a command, read off the CIPHER bits of its word (R101, R200). -/
theorem keySize_of_word (c : Command) :
    (if c.word.extractLsb' 2 2 = 0#2 then 8 else if c.word.extractLsb' 2 2 = 1#2 then 16 else 24) =
      Config.keySize c.cipher := by
  obtain ⟨m, T, d⟩ := c
  cases m <;> cases T <;> cases d <;> rfl

/-- The code a validation ends with: 0 when every check passes. -/
def validationCode : Except ErrCode Command → BitVec 3
  | .error e => e.code
  | .ok _ => 0#3

/-- The statements' check list gives the code that validation gives (R221, R300). -/
theorem expectedCode_eq (w keyLen inLen outLen : Word) (bufBytes : Nat) :
    expectedCode w keyLen inLen outLen bufBytes = validationCode (validate w keyLen inLen outLen bufBytes) := by
  unfold expectedCode validate
  cases hd : decodeCtrl w with
  | error e =>
    rw [if_pos (by rw [mem_commandTable_word_iff, hd]; simp)]
    rfl
  | ok c =>
    rw [if_neg (not_not.2 ((mem_commandTable_word_iff w).2 ⟨c, hd⟩))]
    obtain rfl := (decodeCtrl_eq_ok_iff w c).1 hd
    rw [keySize_of_word, apply_ite validationCode, apply_ite validationCode, apply_ite validationCode,
      apply_ite validationCode]
    rfl

theorem ErrCode.code_ne_zero (e : ErrCode) : e.code ≠ 0#3 := by cases e <;> decide

theorem ErrCode.code_le_five (e : ErrCode) : e.code.toNat ≤ 5 := by cases e <;> decide

/-- A START that some check refuses is an error completion with the expected code (R222). -/
theorem State.start_of_failed {s : State} {w : Word}
    (h : expectedCode w s.keyLen s.inLen s.outLen s.bufBytes ≠ 0#3) :
    ∃ e : ErrCode, e.code = expectedCode w s.keyLen s.inLen s.outLen s.bufBytes ∧ s.start w = s.errorComplete e := by
  rw [expectedCode_eq] at *
  obtain ⟨e, hv, hs⟩ | ⟨c, hv, -⟩ := s.start_cases w
  · exact ⟨e, by rw [hv]; rfl, hs⟩
  · rw [hv] at h; exact absurd rfl h

/-- A START that passes every check issues its command (R223). -/
theorem State.start_of_valid {s : State} {w : Word}
    (h : expectedCode w s.keyLen s.inLen s.outLen s.bufBytes = 0#3) :
    ∃ c, validate w s.keyLen s.inLen s.outLen s.bufBytes = .ok c ∧ s.start w = s.issue c := by
  rw [expectedCode_eq] at h
  obtain ⟨e, hv, -⟩ | ⟨c, hv, hs⟩ := s.start_cases w
  · rw [hv] at h; exact absurd h e.code_ne_zero
  · exact ⟨c, hv, hs⟩

/-! ## Accesses -/

theorem exec_rd32 (s : State) (o : Offset) : exec (.rd32 o) s = .next (s.hostRead o) := rfl

theorem exec_wr32 (s : State) (o : Offset) (d : Word) : exec (.wr32 o d) s = .next (s.hostWrite o d) := rfl

/-- A read changes nothing but the port's answer and the fault set (R77, R260). -/
theorem State.hostRead_frame (s : State) (o : Offset) : ∃ f r, s.hostRead o = { s with faults := f, resp := r } := by
  obtain ⟨-, h⟩ | ⟨-, -, -, h⟩ | ⟨-, -, v, -, h⟩ | ⟨-, -, -, h⟩ := s.hostRead_cases o
  all_goals exact ⟨_, _, h⟩

theorem State.hostRead_faults_mono (s : State) (o : Offset) (f : Fault) (h : s.faults.has f = true) :
    (s.hostRead o).faults.has f = true := by
  obtain ⟨-, h'⟩ | ⟨-, -, -, h'⟩ | ⟨-, -, v, -, h'⟩ | ⟨-, -, -, h'⟩ := s.hostRead_cases o
  all_goals simp [h', h]

/-- A read of an IDLE core whose word has no value records UninitRead (R260). -/
theorem State.hostRead_of_uninit {s : State} {o : Offset} (ha : offsetAligned o = true) (hp : s.phase = .idle)
    (hv : s.readSlot (slotAt s.bufBytes o) = none) : s.hostRead o = s.uninitAccess := by
  simp [State.hostRead, ha, hp, hv]

/-- An aligned write to an IDLE core is performed on the slot of its offset (R261). -/
theorem State.hostWrite_of_idle {s : State} {o : Offset} (ha : offsetAligned o = true) (hp : s.phase = .idle)
    (d : Word) : s.hostWrite o d = { s with resp := .accepted }.writeSlot d (slotAt s.bufBytes o) := by
  simp [State.hostWrite, ha, hp]

theorem State.hostWrite_ctrl_of_idle {s : State} (hp : s.phase = .idle) (d : Word) :
    s.hostWrite 0x000#14 d = { s with resp := .accepted }.writeCtrl d :=
  State.hostWrite_of_idle rfl hp d

/-- A CTRL write with START = 1 stores its bits and starts its word (R34, R264). -/
theorem State.writeCtrl_of_start (s : State) {d : Word} (h : d.getLsbD 0 = true) :
    s.writeCtrl d = { s with ctrl := d.extractLsb' 1 31 }.start d :=
  if_pos h

/-- A CTRL write with START = 0 only stores its bits (R107). -/
theorem State.writeCtrl_of_no_start (s : State) {d : Word} (h : d.getLsbD 0 = false) :
    s.writeCtrl d = { s with ctrl := d.extractLsb' 1 31 } :=
  if_neg (ne_true_of_eq_false h)

/-- A START write to an IDLE core (R264). -/
theorem State.hostWrite_start_of_idle {s : State} (hp : s.phase = .idle) {d : Word} (h : d.getLsbD 0 = true) :
    s.hostWrite 0x000#14 d = { s with resp := .accepted, ctrl := d.extractLsb' 1 31 }.start d := by
  rw [State.hostWrite_ctrl_of_idle hp, State.writeCtrl_of_start _ h]

/-- Everything a CTRL write can do: store, or store and end in an error, or store and issue (R107, R222, R223). -/
theorem State.writeCtrl_cases (s : State) (d : Word) :
    (d.getLsbD 0 = false ∧ s.writeCtrl d = { s with ctrl := d.extractLsb' 1 31 }) ∨
    (∃ e : ErrCode, d.getLsbD 0 = true ∧ expectedCode d s.keyLen s.inLen s.outLen s.bufBytes = e.code ∧
      s.writeCtrl d = { s with ctrl := d.extractLsb' 1 31 }.errorComplete e) ∨
    (∃ c, d.getLsbD 0 = true ∧ expectedCode d s.keyLen s.inLen s.outLen s.bufBytes = 0#3 ∧
      validate d s.keyLen s.inLen s.outLen s.bufBytes = .ok c ∧
      s.writeCtrl d = { s with ctrl := d.extractLsb' 1 31 }.issue c) := by
  cases hd : d.getLsbD 0 with
  | false => exact .inl ⟨rfl, s.writeCtrl_of_no_start hd⟩
  | true =>
    rw [s.writeCtrl_of_start hd]
    by_cases hc : expectedCode d s.keyLen s.inLen s.outLen s.bufBytes = 0#3
    · obtain ⟨c, hv, hs⟩ := State.start_of_valid (s := { s with ctrl := d.extractLsb' 1 31 }) hc
      exact .inr (.inr ⟨c, rfl, hc, hv, hs⟩)
    · obtain ⟨e, he, hs⟩ := State.start_of_failed (s := { s with ctrl := d.extractLsb' 1 31 }) hc
      exact .inr (.inl ⟨e, rfl, he.symm, hs⟩)

/-! ## Frame of a CTRL write and of a write by slot -/

/-- What no CTRL write touches: all but CTRL, DONE, ERR, the phase and the internal registers. -/
theorem State.writeCtrl_frame (s : State) (d : Word) : ∃ c dn e p g,
    s.writeCtrl d = { s with ctrl := c, done := dn, err := e, phase := p, engine := g } := by
  obtain ⟨-, h⟩ | ⟨e, -, -, h⟩ | ⟨c, -, -, -, h⟩ := s.writeCtrl_cases d
  all_goals exact ⟨_, _, _, _, _, h⟩

/-- A CTRL write that issues no command leaves the phase and the internal registers (R107, R222). -/
theorem State.writeCtrl_not_issued {s : State} {d : Word}
    (h : d.getLsbD 0 = false ∨ expectedCode d s.keyLen s.inLen s.outLen s.bufBytes ≠ 0#3) :
    (s.writeCtrl d).phase = s.phase ∧ (s.writeCtrl d).engine = s.engine := by
  obtain ⟨-, h'⟩ | ⟨e, -, -, h'⟩ | ⟨c, hd, hc, -, -⟩ := s.writeCtrl_cases d
  · simp [h']
  · simp [h']
  · exact absurd hc (h.resolve_left (ne_false_of_eq_true hd))

section WriteCtrl

variable (s : State) (d : Word)

@[simp] theorem State.writeCtrl_bufBlocks : (s.writeCtrl d).bufBlocks = s.bufBlocks := by
  obtain ⟨_, _, _, _, _, h⟩ := s.writeCtrl_frame d; rw [h]
@[simp] theorem State.writeCtrl_ie : (s.writeCtrl d).ie = s.ie := by
  obtain ⟨_, _, _, _, _, h⟩ := s.writeCtrl_frame d; rw [h]
@[simp] theorem State.writeCtrl_keyLen : (s.writeCtrl d).keyLen = s.keyLen := by
  obtain ⟨_, _, _, _, _, h⟩ := s.writeCtrl_frame d; rw [h]
@[simp] theorem State.writeCtrl_inLen : (s.writeCtrl d).inLen = s.inLen := by
  obtain ⟨_, _, _, _, _, h⟩ := s.writeCtrl_frame d; rw [h]
@[simp] theorem State.writeCtrl_outLen : (s.writeCtrl d).outLen = s.outLen := by
  obtain ⟨_, _, _, _, _, h⟩ := s.writeCtrl_frame d; rw [h]
@[simp] theorem State.writeCtrl_key : (s.writeCtrl d).key = s.key := by
  obtain ⟨_, _, _, _, _, h⟩ := s.writeCtrl_frame d; rw [h]
@[simp] theorem State.writeCtrl_iv : (s.writeCtrl d).iv = s.iv := by
  obtain ⟨_, _, _, _, _, h⟩ := s.writeCtrl_frame d; rw [h]
@[simp] theorem State.writeCtrl_inBuf : (s.writeCtrl d).inBuf = s.inBuf := by
  obtain ⟨_, _, _, _, _, h⟩ := s.writeCtrl_frame d; rw [h]
@[simp] theorem State.writeCtrl_outBuf : (s.writeCtrl d).outBuf = s.outBuf := by
  obtain ⟨_, _, _, _, _, h⟩ := s.writeCtrl_frame d; rw [h]
@[simp] theorem State.writeCtrl_faults : (s.writeCtrl d).faults = s.faults := by
  obtain ⟨_, _, _, _, _, h⟩ := s.writeCtrl_frame d; rw [h]
@[simp] theorem State.writeCtrl_resp : (s.writeCtrl d).resp = s.resp := by
  obtain ⟨_, _, _, _, _, h⟩ := s.writeCtrl_frame d; rw [h]
@[simp] theorem State.writeCtrl_inputs : (s.writeCtrl d).inputs = s.inputs := by
  obtain ⟨_, _, _, _, _, h⟩ := s.writeCtrl_frame d; rw [h]
@[simp] theorem State.writeCtrl_turns : (s.writeCtrl d).turns = s.turns := by
  obtain ⟨_, _, _, _, _, h⟩ := s.writeCtrl_frame d; rw [h]
@[simp] theorem State.writeCtrl_freeCount : (s.writeCtrl d).freeCount = s.freeCount := by
  obtain ⟨_, _, _, _, _, h⟩ := s.writeCtrl_frame d; rw [h]

end WriteCtrl

theorem KeyStore.get_set_of_ne (k : KeyStore) {v w : Fin 6} (d : Word) (h : v ≠ w) : (k.set v d).get w = k.get w := by
  fin_cases v <;> fin_cases w <;> simp_all [KeyStore.get, KeyStore.set]

theorem IvStore.get_set_of_ne (iv : IvStore) {v w : Fin 2} (d : Word) (h : v ≠ w) :
    (iv.set v d).get w = iv.get w := by
  fin_cases v <;> fin_cases w <;> simp_all [IvStore.get, IvStore.set]

section WriteSlot

variable (s : State) (d : Word) (slot : Slot)

/-- What a write leaves at every slot (R263). -/
theorem State.writeSlot_frame : (s.writeSlot d slot).bufBlocks = s.bufBlocks ∧
    (s.writeSlot d slot).inputs = s.inputs ∧ (s.writeSlot d slot).turns = s.turns ∧
    (s.writeSlot d slot).freeCount = s.freeCount ∧ (s.writeSlot d slot).faults = s.faults := by
  cases slot <;> simp [State.writeSlot]

variable {slot}

theorem State.writeSlot_sequencer (h : slot ≠ .ctrl) :
    (s.writeSlot d slot).phase = s.phase ∧ (s.writeSlot d slot).engine = s.engine := by
  cases slot <;> simp_all [State.writeSlot]

theorem State.writeSlot_ctrl (h : slot ≠ .ctrl) : (s.writeSlot d slot).ctrl = s.ctrl := by
  cases slot <;> simp_all [State.writeSlot]

theorem State.writeSlot_flags (hc : slot ≠ .ctrl) (hs : slot ≠ .status) :
    (s.writeSlot d slot).done = s.done ∧ (s.writeSlot d slot).err = s.err := by
  cases slot <;> simp_all [State.writeSlot]

theorem State.writeSlot_ie (h : slot ≠ .irqEn) : (s.writeSlot d slot).ie = s.ie := by
  cases slot <;> simp_all [State.writeSlot]

theorem State.writeSlot_keyLen (h : slot ≠ .keyLen) : (s.writeSlot d slot).keyLen = s.keyLen := by
  cases slot <;> simp_all [State.writeSlot]

theorem State.writeSlot_inLen (h : slot ≠ .inLen) : (s.writeSlot d slot).inLen = s.inLen := by
  cases slot <;> simp_all [State.writeSlot]

theorem State.writeSlot_outLen (h : slot ≠ .outLen) : (s.writeSlot d slot).outLen = s.outLen := by
  cases slot <;> simp_all [State.writeSlot]

theorem State.writeSlot_key_get {w : Fin 6} (h : slot ≠ .key w) :
    (s.writeSlot d slot).key.get w = s.key.get w := by
  cases slot with
  | key v => exact s.key.get_set_of_ne d fun e => h (congrArg Slot.key e)
  | _ => simp [State.writeSlot]

theorem State.writeSlot_iv_get {w : Fin 2} (h : slot ≠ .iv w) : (s.writeSlot d slot).iv.get w = s.iv.get w := by
  cases slot with
  | iv v => exact s.iv.get_set_of_ne d fun e => h (congrArg Slot.iv e)
  | _ => simp [State.writeSlot]

theorem State.writeSlot_inBuf_read {a : Nat} (h : ∀ j, slot = .inBuf j → a < j ∨ j + 4 ≤ a) :
    (s.writeSlot d slot).inBuf.read a = s.inBuf.read a := by
  cases slot with
  | inBuf j => exact s.inBuf.read_writeWord_other d (h j rfl)
  | _ => simp [State.writeSlot]

theorem State.writeSlot_outBuf_read {a : Nat} (h : ∀ j, slot = .outBuf j → a < j ∨ j + 4 ≤ a) :
    (s.writeSlot d slot).outBuf.read a = s.outBuf.read a := by
  cases slot with
  | outBuf j => exact s.outBuf.read_writeWord_other d (h j rfl)
  | _ => simp [State.writeSlot]

end WriteSlot

/-! ## Offsets of slots -/

/-- The offset that selects a slot (R71); the reserved ranges have no offset of their own. -/
def Slot.offset : Slot → Option Nat
  | .ctrl => some 0x000
  | .status => some 0x004
  | .irqEn => some 0x008
  | .keyLen => some 0x00C
  | .inLen => some 0x010
  | .outLen => some 0x014
  | .key w => some (0x020 + 4 * w.val)
  | .iv w => some (0x040 + 4 * w.val)
  | .inBuf j => some (0x1000 + j)
  | .outBuf j => some (0x2000 + j)
  | .reserved => none

theorem toNat_of_slotAt (s : State) (o : Offset) {x : Nat} (h : (slotAt s.bufBytes o).offset = some x) :
    o.toNat = x := by
  have hs := slotAt_spec s o
  revert h hs
  cases slotAt s.bufBytes o <;> simp only [Slot.offset, Option.some.injEq, reduceCtorEq, false_implies] <;>
    rintro rfl hs
  case key w => exact hs
  case iv w => exact hs
  case inBuf j => exact hs.1
  case outBuf j => exact hs.1
  all_goals exact congrArg BitVec.toNat hs

/-- A slot is selected by its own offset only. -/
theorem slotAt_ne (s : State) {o : Offset} {slot : Slot} {x : Nat} (hx : slot.offset = some x)
    (h : o ≠ BitVec.ofNat 14 x) : slotAt s.bufBytes o ≠ slot := by
  rintro rfl
  exact h (BitVec.eq_of_toNat_eq (by simp [← toNat_of_slotAt s o hx]))

end Sys2Proof.Machine

/-! # WR32's frame -/

namespace Sys2Proof.Machine

theorem offset_eq_zero_of_slotAt_ctrl {s : State} {o : Offset} (h : slotAt s.bufBytes o = .ctrl) : o = 0x000#14 := by
  have hs := slotAt_spec s o
  rwa [h] at hs

/-- A write that issues no command leaves the phase and the internal registers (R107, R222, R263). -/
theorem State.writeSlot_not_issued {s : State} {o : Offset} {d : Word}
    (h : o ≠ 0x000#14 ∨ d.getLsbD 0 = false ∨ expectedCode d s.keyLen s.inLen s.outLen s.bufBytes ≠ 0#3) :
    (s.writeSlot d (slotAt s.bufBytes o)).phase = s.phase ∧
      (s.writeSlot d (slotAt s.bufBytes o)).engine = s.engine := by
  by_cases hc : slotAt s.bufBytes o = .ctrl
  · rw [hc]
    exact State.writeCtrl_not_issued (h.resolve_left (not_not.2 (offset_eq_zero_of_slotAt_ctrl hc)))
  · exact s.writeSlot_sequencer d hc

/-- A write to an aligned offset changes IN_BUF only in the word it selects. -/
theorem State.writeSlot_slotAt_inBuf_read {s : State} {o : Offset} (d : Word) (ha : offsetAligned o = true) {a : Nat}
    (h : o.toNat ≠ 0x1000 + a / 4 * 4 ∨ s.bufBytes ≤ a) :
    (s.writeSlot d (slotAt s.bufBytes o)).inBuf.read a = s.inBuf.read a := by
  refine s.writeSlot_inBuf_read d fun j hj => ?_
  have hw := slotAt_buffer_word s o j ha (.inl hj)
  have ho := toNat_of_slotAt s o (x := 0x1000 + j) (by rw [hj]; rfl)
  omega

/-- A write to an aligned offset changes OUT_BUF only in the word it selects. -/
theorem State.writeSlot_slotAt_outBuf_read {s : State} {o : Offset} (d : Word) (ha : offsetAligned o = true) {a : Nat}
    (h : o.toNat ≠ 0x2000 + a / 4 * 4 ∨ s.bufBytes ≤ a) :
    (s.writeSlot d (slotAt s.bufBytes o)).outBuf.read a = s.outBuf.read a := by
  refine s.writeSlot_outBuf_read d fun j hj => ?_
  have hw := slotAt_buffer_word s o j ha (.inr hj)
  have ho := toNat_of_slotAt s o (x := 0x2000 + j) (by rw [hj]; rfl)
  omega

/-- Settles O17: a refused or hazardous write changes the answer and the fault set only; a performed one changes what
its slot holds. -/
theorem writeFrame : Obligations.WriteFrame := by
  intro s o d
  refine ⟨_, exec_wr32 s o d, ?_⟩
  obtain ⟨ha, h⟩ | ⟨-, hb, h⟩ | ⟨ha, hp, h⟩ := s.hostWrite_cases o d
  · have hmod : o.toNat % 4 ≠ 0 := fun hm => by simp [(offsetAligned_iff o).2 hm] at ha
    simp [h, hmod]
  · have hidle : s.phase ≠ .idle := by simp [hb]
    simp [h, hidle]
  · rw [h]
    let u : State := { s with resp := .accepted }
    obtain ⟨hBlocks, hInputs, hTurns, hCount, hFaults⟩ := u.writeSlot_frame d (slotAt s.bufBytes o)
    exact ⟨hBlocks, hInputs, hTurns, hCount,
      fun hc => State.writeSlot_not_issued (s := u) (hc.imp_right fun hc => hc.resolve_left (by simp [hp])),
      fun hc => u.writeSlot_ctrl d (slotAt_ne s rfl hc),
      fun hc hs => u.writeSlot_flags d (slotAt_ne s rfl hc) (slotAt_ne s rfl hs),
      fun hc => u.writeSlot_ie d (slotAt_ne s rfl hc),
      fun hc => u.writeSlot_keyLen d (slotAt_ne s rfl hc),
      fun hc => u.writeSlot_inLen d (slotAt_ne s rfl hc),
      fun hc => u.writeSlot_outLen d (slotAt_ne s rfl hc),
      fun hc => u.writeSlot_key_get d (w := 0) (slotAt_ne s rfl hc),
      fun hc => u.writeSlot_key_get d (w := 1) (slotAt_ne s rfl hc),
      fun hc => u.writeSlot_key_get d (w := 2) (slotAt_ne s rfl hc),
      fun hc => u.writeSlot_key_get d (w := 3) (slotAt_ne s rfl hc),
      fun hc => u.writeSlot_key_get d (w := 4) (slotAt_ne s rfl hc),
      fun hc => u.writeSlot_key_get d (w := 5) (slotAt_ne s rfl hc),
      fun hc => u.writeSlot_iv_get d (w := 0) (slotAt_ne s rfl hc),
      fun hc => u.writeSlot_iv_get d (w := 1) (slotAt_ne s rfl hc),
      fun a hc => State.writeSlot_slotAt_inBuf_read (s := u) d ha hc,
      fun a hc => State.writeSlot_slotAt_outBuf_read (s := u) d ha hc,
      fun hb => absurd hb (by simp [hp]),
      fun _ _ => hFaults⟩

/-- Settles O11: a byte with no mark leaves its word without a value. -/
theorem readOfUnmarkedByteRecordsUninitRead : Obligations.ReadOfUnmarkedByteRecordsUninitRead := by
  intro s o k j hp hk hj h
  have hnone : offsetAligned o = true ∧ s.readSlot (slotAt s.bufBytes o) = none := by
    rw [offsetAligned_iff]
    obtain ⟨ho, hr⟩ | ⟨ho, hr⟩ := h
    · rw [slotAt_inBuf s o _ hk ho]
      exact ⟨by omega, Memory.readWord_eq_none hj hr⟩
    · rw [slotAt_outBuf s o _ hk ho]
      exact ⟨by omega, Memory.readWord_eq_none hj hr⟩
  obtain ⟨ha, hv⟩ := hnone
  rw [exec_rd32, State.hostRead_of_uninit ha hp hv]
  rfl

/-- Settles O34: a failed START is an error completion, a valid one an issue, and IRQ follows DONE and IE. -/
theorem irqIsDoneAndEnabled : Obligations.IrqIsDoneAndEnabled := by
  intro s t hp
  refine ⟨fun w hw hc h => ?_, fun w hw hc h => ?_, fun d h => ?_⟩
  · rw [exec_wr32, State.hostWrite_start_of_idle hp hw] at h
    obtain ⟨e, -, he⟩ := State.start_of_failed (s := { s with resp := .accepted, ctrl := w.extractLsb' 1 31 }) hc
    rw [he] at h
    cases h
    simp [State.irq]
  · rw [exec_wr32, State.hostWrite_start_of_idle hp hw] at h
    obtain ⟨c, -, hi⟩ := State.start_of_valid (s := { s with resp := .accepted, ctrl := w.extractLsb' 1 31 }) hc
    rw [hi] at h
    cases h
    simp [State.irq]
  · rw [exec_wr32, State.hostWrite_of_idle rfl hp] at h
    cases h
    exact ⟨rfl, rfl⟩

end Sys2Proof.Machine

/-! # The datapath and the stage sequencer compute the cipher -/

namespace Sys2Proof.Machine

/-! ## Rotations of a key-schedule half -/

theorem getLsbD_rotl28 (v : BitVec 28) {s i : Nat} (hs : s ≤ 28) (hi : i < 28) :
    (rotl28 v s).getLsbD i = v.getLsbD ((i + (28 - s)) % 28) := by
  simp only [rotl28, BitVec.getLsbD_or, BitVec.getLsbD_shiftLeft, BitVec.getLsbD_ushiftRight, hi, decide_true,
    Bool.true_and]
  by_cases h : i < s
  · simp [h, show (i + (28 - s)) % 28 = 28 - s + i by omega]
  · simp [h, show (i + (28 - s)) % 28 = i - s by omega, show 28 ≤ 28 - s + i by omega]

theorem getLsbD_rotr28 (v : BitVec 28) {s i : Nat} (hs : s ≤ 28) (hi : i < 28) :
    (rotr28 v s).getLsbD i = v.getLsbD ((i + s) % 28) := by
  have h := getLsbD_rotl28 v (s := 28 - s) (by omega) hi
  rw [show 28 - (28 - s) = s by omega] at h
  rw [← h]
  simp only [rotr28, rotl28, show 28 - (28 - s) = s by omega, BitVec.or_comm]

/-- Rotating back undoes a rotation (R153). -/
theorem rotr28_rotl28 (v : BitVec 28) {s : Nat} (hs : s ≤ 28) : rotr28 (rotl28 v s) s = v := by
  apply BitVec.eq_of_getLsbD_eq
  intro i hi
  rw [getLsbD_rotr28 _ hs hi, getLsbD_rotl28 _ hs (Nat.mod_lt _ (by omega))]
  congr 1
  omega

theorem rotl28_rotl28 (v : BitVec 28) {s t : Nat} (h : s + t ≤ 28) : rotl28 (rotl28 v s) t = rotl28 v (s + t) := by
  apply BitVec.eq_of_getLsbD_eq
  intro i hi
  rw [getLsbD_rotl28 _ (by omega) hi, getLsbD_rotl28 _ (by omega) (Nat.mod_lt _ (by omega)), getLsbD_rotl28 _ h hi]
  congr 1
  omega

theorem rotl28_28 (v : BitVec 28) : rotl28 v 28 = v := by
  apply BitVec.eq_of_getLsbD_eq
  intro i hi
  rw [getLsbD_rotl28 _ (by omega) hi]
  congr 1
  omega

/-- The rotations of the sixteen rounds go once around a half: `C_16 = C_0`, `D_16 = D_0` (R153). -/
theorem foldl_rotl28_leftShifts (v : BitVec 28) : leftShifts.foldl rotl28 v = v := by
  simp [leftShifts, rotl28_rotl28, rotl28_28]

/-! ## A pass of the datapath is DES -/

theorem subkeysFrom_concat (c d : BitVec 28) (ss : List Nat) (s : Nat) :
    subkeysFrom c d (ss ++ [s]) = subkeysFrom c d ss ++
      [subkey (rotl28 (ss.foldl rotl28 c) s) (rotl28 (ss.foldl rotl28 d) s)] := by
  induction ss generalizing c d with
  | nil => rfl
  | cons t ss ih => simp [subkeysFrom, ih]

/-- The next round of an encryption pass rotates by the first of the shifts that are left (R171). -/
theorem roundStep_enc {p : Datapath} {s : Nat} {ss : List Nat} (hdir : p.pdir = .enc)
    (hs : leftShifts.drop p.rnd.val = s :: ss) :
    roundStep p = roundWith (rotl28 p.c s) (rotl28 p.d s) (subkey (rotl28 p.c s) (rotl28 p.d s)) p ∧
      leftShifts.drop (nextRound p.rnd).val = ss := by
  have hlt : p.rnd.val < 16 := by
    by_contra hge
    rw [List.drop_of_length_le (by simp [leftShifts]; omega)] at hs
    cases hs
  have hshift : leftShift (p.rnd.val + 1) = s := by
    simpa [leftShift] using congrArg (fun l => l.getD 0 0) hs
  refine ⟨by simp [roundStep, hlt, hdir, roundStepEnc, hshift], ?_⟩
  simp only [nextRound, hlt, dif_pos]
  rw [← List.drop_drop, hs]
  rfl

/-- The rounds of an encryption pass that are left, as the Feistel rounds of their subkeys in order (R155, R171). -/
theorem roundSteps_enc (ss : List Nat) (p : Datapath) (hdir : p.pdir = .enc) (hs : leftShifts.drop p.rnd.val = ss) :
    roundSteps ss.length p = { p with
      l := ((subkeysFrom p.c p.d ss).foldl feistelRound (p.l, p.r)).1
      r := ((subkeysFrom p.c p.d ss).foldl feistelRound (p.l, p.r)).2
      c := ss.foldl rotl28 p.c
      d := ss.foldl rotl28 p.d
      rnd := 16 } := by
  induction ss generalizing p with
  | nil =>
    have hlen : leftShifts.length ≤ p.rnd.val := List.drop_eq_nil_iff.1 hs
    have hr : p.rnd = 16 := Fin.ext (by simp [leftShifts] at hlen ⊢; omega)
    simp [roundSteps, subkeysFrom, ← hr]
  | cons s ss ih =>
    obtain ⟨hstep, hnext⟩ := roundStep_enc hdir hs
    rw [List.length_cons, roundSteps, hstep, ih (roundWith _ _ _ p) hdir hnext]
    rfl

/-- The next round of a decryption pass takes the subkey of the halves and rotates them back by the last of the shifts
that are left (R171). -/
theorem roundStep_dec {p : Datapath} {s : Nat} {ss : List Nat} (hdir : p.pdir = .dec)
    (hs : leftShifts.take (16 - p.rnd.val) = ss ++ [s]) {c d : BitVec 28} (hc : p.c = rotl28 c s)
    (hd : p.d = rotl28 d s) :
    roundStep p = roundWith c d (subkey p.c p.d) p ∧ leftShifts.take (16 - (nextRound p.rnd).val) = ss := by
  have hn : 16 - p.rnd.val = ss.length + 1 := by
    simpa [leftShifts] using congrArg List.length hs
  have hshift : leftShift (16 - p.rnd.val) = s := by
    have h := congrArg (fun l => l.getD ss.length 0) hs
    rw [hn] at h ⊢
    simpa [leftShift, List.getElem?_take] using h
  have hle : s ≤ 28 := by
    have hmem : s ∈ leftShifts := List.mem_of_mem_take (by rw [hs]; simp)
    exact (show ∀ x ∈ leftShifts, x ≤ 28 by decide) s hmem
  have hlt : p.rnd.val < 16 := by omega
  refine ⟨by simp [roundStep, hlt, hdir, roundStepDec, hshift, hc, hd, rotr28_rotl28 _ hle], ?_⟩
  simp only [nextRound, hlt, dif_pos]
  simpa [List.take_take, show 16 - (p.rnd.val + 1) = ss.length by omega, hn] using congrArg (List.take ss.length) hs

/-- The rounds of a decryption pass that are left, as the Feistel rounds of the subkeys of the schedule's beginning, the
last first; the halves are rotated back to those before the first of them (R153, R155, R171). -/
theorem roundSteps_dec (c d : BitVec 28) (ss : List Nat) (p : Datapath) (hdir : p.pdir = .dec)
    (hs : leftShifts.take (16 - p.rnd.val) = ss) (hc : p.c = ss.foldl rotl28 c) (hd : p.d = ss.foldl rotl28 d) :
    roundSteps ss.length p = { p with
      l := ((subkeysFrom c d ss).reverse.foldl feistelRound (p.l, p.r)).1
      r := ((subkeysFrom c d ss).reverse.foldl feistelRound (p.l, p.r)).2
      c := c
      d := d
      rnd := 16 } := by
  induction ss using List.reverseRecOn generalizing p with
  | nil =>
    have hlen := congrArg List.length hs
    have hr : p.rnd = 16 := Fin.ext (by simp [leftShifts] at hlen ⊢; omega)
    obtain ⟨rfl, rfl⟩ : p.c = c ∧ p.d = d := ⟨hc, hd⟩
    simp [roundSteps, subkeysFrom, ← hr]
  | append_singleton ss s ih =>
    rw [List.foldl_concat] at hc hd
    obtain ⟨hstep, hnext⟩ := roundStep_dec hdir hs hc hd
    rw [List.length_append, List.length_singleton, roundSteps, hstep,
      ih (roundWith _ _ _ p) hdir hnext rfl rfl, subkeysFrom_concat, List.reverse_concat, List.foldl_cons, ← hc, ← hd]
    rfl

/-- The registers at the end of an encryption pass (R171, R173). -/
theorem passRun_enc (key v : Block) : passRun .enc key v = { passLoad .enc key v with
    l := ((keySchedule key).foldl feistelRound (blockL0 v, blockR0 v)).1
    r := ((keySchedule key).foldl feistelRound (blockL0 v, blockR0 v)).2
    rnd := 16 } := by
  have h := roundSteps_enc leftShifts (passLoad .enc key v) rfl rfl
  rwa [foldl_rotl28_leftShifts, foldl_rotl28_leftShifts] at h

/-- The registers at the end of a decryption pass (R171, R173). -/
theorem passRun_dec (key v : Block) : passRun .dec key v = { passLoad .dec key v with
    l := ((keySchedule key).reverse.foldl feistelRound (blockL0 v, blockR0 v)).1
    r := ((keySchedule key).reverse.foldl feistelRound (blockL0 v, blockR0 v)).2
    rnd := 16 } :=
  roundSteps_dec (keyC0 key) (keyD0 key) leftShifts (passLoad .dec key v) rfl rfl
    (foldl_rotl28_leftShifts _).symm (foldl_rotl28_leftShifts _).symm

/-- A pass gives DES of its input in the pass's direction (R168, R169, R172). -/
@[simp] theorem passResult_passRun_enc (key v : Block) : passResult (passRun .enc key v) = desEnc key v := by
  rw [passRun_enc]; rfl

@[simp] theorem passResult_passRun_dec (key v : Block) : passResult (passRun .dec key v) = desDec key v := by
  rw [passRun_dec]; rfl

/-! ## The Triple-DES stages -/

/-- The stages keep the command latch, the block index and the chain register (R203). -/
theorem runStages_frame (k1 k2 k3 : Block) (dir : Dir) (b : Block) (e : Engine) :
    (runStages k1 k2 k3 dir b e).cmd = e.cmd ∧ (runStages k1 k2 k3 dir b e).idx = e.idx ∧
      (runStages k1 k2 k3 dir b e).ch = e.ch :=
  ⟨rfl, rfl, rfl⟩

/-- The three stages compute the E-D-E composition in X (R201, R203). -/
theorem runStages_enc_x (k1 k2 k3 b : Block) (e : Engine) :
    (runStages k1 k2 k3 .enc b e).x = edeCipher k1 k2 k3 b := by
  simp [runStages, runStage, stageDir, stageKey, edeCipher]

/-- The three stages compute the D-E-D composition in X (R202, R203). -/
theorem runStages_dec_x (k1 k2 k3 b : Block) (e : Engine) :
    (runStages k1 k2 k3 .dec b e).x = edeDecipher k1 k2 k3 b := by
  simp [runStages, runStage, stageDir, stageKey, edeDecipher]

/-! ## The cipher of a command -/

/-- The sequencer gives T of the latched key (R203, R225). -/
theorem runCipher_block (dir : Dir) (b : Block) (e : Engine) : (runCipher dir b e).2 = e.cmd.key.apply dir b := by
  unfold runCipher
  cases e.cmd.key <;> cases dir <;>
    simp [CipherKey.apply, CipherKey.enc, CipherKey.dec, runStages_enc_x, runStages_dec_x, tdes2Enc, tdes2Dec,
      tdes3Enc, tdes3Dec]

/-- The sequencer keeps the command latch, the block index and the chain register (R203). -/
theorem runCipher_frame (dir : Dir) (b : Block) (e : Engine) :
    (runCipher dir b e).1.cmd = e.cmd ∧ (runCipher dir b e).1.idx = e.idx ∧ (runCipher dir b e).1.ch = e.ch := by
  unfold runCipher
  cases e.cmd.key with
  | des k1 => exact ⟨rfl, rfl, rfl⟩
  | tdes2 k1 k2 => exact runStages_frame k1 k2 k1 dir b e
  | tdes3 k1 k2 k3 => exact runStages_frame k1 k2 k3 dir b e

/-- A DES command does not use the Triple-DES stage state (R43). -/
theorem runCipher_des_stage {dir : Dir} {b : Block} {e : Engine} (h : e.cmd.key.cipher = .des) :
    (runCipher dir b e).1.stg = e.stg ∧ (runCipher dir b e).1.x = e.x := by
  unfold runCipher
  cases hk : e.cmd.key with
  | des k1 => exact ⟨rfl, rfl⟩
  | tdes2 k1 k2 => simp [hk, CipherKey.cipher] at h
  | tdes3 k1 k2 k3 => simp [hk, CipherKey.cipher] at h

/-- Settles O43: a DES pass and the three Triple-DES stages each compute T, and none writes cmd, idx or CH. -/
theorem stageSequencerComputesTheCipher : Obligations.StageSequencerComputesTheCipher := by
  intro dir b e
  obtain ⟨hcmd, hidx, hch⟩ := runCipher_frame dir b e
  exact ⟨runCipher_block dir b e, hcmd, hidx, hch, runCipher_des_stage⟩

end Sys2Proof.Machine

/-! # What one step can do, and what every step keeps -/

namespace Sys2Proof.Machine

/-! ## What one step can do, as a relation -/

/-- The state with other inputs and moves still to come, which an access never reads. -/
abbrev State.awaiting (s : State) (is : List Input) (ts : List Agent) : State := { s with inputs := is, turns := ts }

/-- What one step can make of a state, whoever moves (R82, R227 to R229): each access acts on the state with the input
and the move taken off, and a POLL's read may put its input back (R110). -/
inductive StepResult (s : State) : State → Prop
  | wait : StepResult s s
  | write (is : List Input) (ts : List Agent) (o : Offset) (d : Word) : StepResult s ((s.awaiting is ts).hostWrite o d)
  | read (is is' : List Input) (ts : List Agent) (o : Offset) :
      StepResult s { (s.awaiting is ts).hostRead o with inputs := is' }
  | refuse (is : List Input) (ts : List Agent) : StepResult s (s.awaiting is ts).refuseAccess
  | outside (is : List Input) (ts : List Agent) : StepResult s { s.awaiting is ts with resp := .notSelected }
  | reset (is : List Input) (ts : List Agent) (h : s.inputs.head? = some .reset) :
      StepResult s (s.awaiting is ts).applyReset
  | core (ts : List Agent) (h : s.phase = .busy) : StepResult s { s with turns := ts }.coreStep

/-- Taking the first input acts on the state with that input taken off. -/
theorem stepResult_of_takeInput {s t : State} {i : Input} (rest : List Input) (ts : List Agent)
    (hi : s.inputs = i :: rest) (h : takeInput i (s.awaiting rest ts) = .next t) : StepResult s t := by
  obtain ⟨o, d, h'⟩ | ⟨o, h'⟩ | ⟨-, h'⟩ | h' | h' | ⟨rfl, h'⟩ | ⟨r, e, -, -, h'⟩ :=
    takeInput_cases i (s.awaiting rest ts)
  all_goals rw [h'] at h; cases h
  · exact .write rest ts o d
  · exact .read rest _ ts o
  · exact .read rest _ ts 0x004#14
  · exact .refuse rest ts
  · exact .outside rest ts
  · exact .reset rest ts (by rw [hi]; rfl)

theorem stepResult_of_step {s t : State} (h : step s = .next t) : StepResult s t := by
  obtain ⟨-, -, h'⟩ | ⟨i, rest, hi, -, h'⟩ | ⟨i, rest, ts, hi, -, -, h'⟩ | ⟨hb, -, h'⟩ |
    ⟨i, rest, ts, -, -, hb, h'⟩ := step_cases s
  all_goals rw [h'] at h
  · cases h; exact .wait
  · exact stepResult_of_takeInput rest s.turns hi h
  · exact stepResult_of_takeInput rest ts hi h
  · cases h; exact .core s.turns hb
  · cases h; exact .core ts hb

/-! ## The core's move -/

/-- On the core's move the step is the core's own, with at most one move used up (R352). -/
theorem step_of_coreMoves {s : State} (h : s.CoreMoves) : ∃ ts, step s = .next { s with turns := ts }.coreStep := by
  obtain ⟨hb, hm⟩ := h
  obtain ⟨hi, -, -⟩ | ⟨i, rest, -, hi, -⟩ | ⟨i, rest, ts, hi, ht, -, -⟩ | ⟨-, -, h'⟩ | ⟨i, rest, ts, -, -, -, h'⟩ :=
    step_cases s
  · simp [hi] at hb
  · simp [hi] at hb
  · simp [hi, ht] at hm
  · exact ⟨s.turns, h'⟩
  · exact ⟨ts, h'⟩

/-- A block step whose input block has no value stops there (R224). -/
theorem State.coreStep_of_uninit {s : State} (hlt : s.engine.idx < s.engine.cmd.nblk)
    (hr : s.inBuf.readBlock (8 * s.engine.idx) = none) : s.coreStep = s.uninitBlock := by
  obtain ⟨-, -, h⟩ | ⟨x, -, -, hx, -⟩ | ⟨x, -, -, hx, -⟩ | ⟨heq, -⟩ | ⟨hgt, -⟩ := s.coreStep_cases
  · exact h
  · simp [hr] at hx
  · simp [hr] at hx
  · omega
  · omega

/-- Settles O27: a byte with no mark leaves its block without a value. -/
theorem blockStepStopsAtUnmarkedByte : Obligations.BlockStepStopsAtUnmarkedByte := by
  intro s j hm hlt hj hr
  obtain ⟨ts, h⟩ := step_of_coreMoves hm
  have hu : { s with turns := ts }.coreStep = { s with turns := ts }.uninitBlock :=
    State.coreStep_of_uninit hlt (Memory.readBlock_eq_none hj hr)
  exact ⟨_, h, by rw [hu]; rfl, by rw [hu]; rfl⟩

/-! ## The parameter BUF_BYTES -/

@[simp] theorem State.hostWrite_bufBlocks (s : State) (o : Offset) (d : Word) :
    (s.hostWrite o d).bufBlocks = s.bufBlocks := by
  obtain ⟨-, h⟩ | ⟨-, -, h⟩ | ⟨-, -, h⟩ := s.hostWrite_cases o d
  · rw [h]; rfl
  · rw [h]; rfl
  · rw [h]; exact (State.writeSlot_frame _ d _).1

@[simp] theorem State.hostRead_bufBlocks (s : State) (o : Offset) : (s.hostRead o).bufBlocks = s.bufBlocks := by
  obtain ⟨f, r, h⟩ := s.hostRead_frame o
  rw [h]

@[simp] theorem State.coreStep_bufBlocks (s : State) : s.coreStep.bufBlocks = s.bufBlocks := by
  obtain ⟨-, -, h⟩ | ⟨x, -, -, -, h⟩ | ⟨x, -, -, -, h⟩ | ⟨-, h⟩ | ⟨-, h⟩ := s.coreStep_cases
  all_goals simp [h]

theorem StepResult.bufBlocks {s t : State} (h : StepResult s t) : t.bufBlocks = s.bufBlocks := by
  cases h <;> simp

/-! ## The set of recorded faults -/

theorem State.hostWrite_faults_mono (s : State) (o : Offset) (d : Word) (f : Fault) (h : s.faults.has f = true) :
    (s.hostWrite o d).faults.has f = true := by
  obtain ⟨-, h'⟩ | ⟨-, -, h'⟩ | ⟨-, -, h'⟩ := s.hostWrite_cases o d
  · simp [h', h]
  · simp [h', h]
  · obtain ⟨-, -, -, -, hf⟩ := State.writeSlot_frame { s with resp := .accepted } d (slotAt s.bufBytes o)
    rw [h', hf]
    exact h

theorem State.coreStep_faults_mono (s : State) (f : Fault) (h : s.faults.has f = true) :
    s.coreStep.faults.has f = true := by
  obtain ⟨-, -, h'⟩ | ⟨x, -, -, -, h'⟩ | ⟨x, -, -, -, h'⟩ | ⟨-, h'⟩ | ⟨-, h'⟩ := s.coreStep_cases
  all_goals simp [h', h]

/-- Settles O20: every result of a step but a reset keeps the recorded faults. -/
theorem faultsOnlyGrow : Obligations.FaultsOnlyGrow := by
  intro s t f h hreset hf
  cases stepResult_of_step h with
  | wait => exact hf
  | write is ts o d => exact State.hostWrite_faults_mono _ o d f hf
  | read is is' ts o => exact State.hostRead_faults_mono _ o f hf
  | refuse is ts => simp [hf]
  | outside is ts => exact hf
  | reset is ts hr => exact absurd hr hreset
  | core ts hb => exact State.coreStep_faults_mono _ f hf

/-! ## The invariant -/

/-- Settles O35: at reset the buffers are empty, the core is IDLE and no flag is set. -/
theorem resetHasTheInvariant : Obligations.ResetHasTheInvariant := by
  intro b
  exact ⟨rfl, rfl, rfl, rfl, nofun, nofun, by simp [State.resetWith], nofun⟩

/-- The invariant speaks of the buffers, the flags, the phase and the internal registers only. -/
theorem State.Inv.of_eq {s t : State} (h : s.Inv)
    (e : t = { t with bufBlocks := s.bufBlocks, done := s.done, err := s.err, inBuf := s.inBuf, outBuf := s.outBuf,
                      phase := s.phase, engine := s.engine }) : t.Inv := by
  rw [e]
  exact ⟨h.inWf, h.outWf, h.inBelow, h.outBelow, h.busyClear, h.errDone, h.errCode, h.sequencer⟩

theorem State.Inv.applyReset (s : State) : s.applyReset.Inv :=
  (resetHasTheInvariant s.bufBlocks).of_eq rfl

theorem State.Inv.hostRead {s : State} (h : s.Inv) (o : Offset) : (s.hostRead o).Inv := by
  obtain ⟨f, r, e⟩ := s.hostRead_frame o
  rw [e]
  exact h.of_eq rfl

/-- Error completion of an IDLE core keeps the invariant (R302). -/
theorem State.Inv.errorComplete {s : State} (h : s.Inv) (hp : s.phase = .idle) (e : ErrCode) :
    (s.errorComplete e).Inv where
  inWf := h.inWf
  outWf := h.outWf
  inBelow := h.inBelow
  outBelow := h.outBelow
  busyClear hb := by simp [hp] at hb
  errDone _ := rfl
  errCode := e.code_le_five
  sequencer hb := by simp [hp] at hb

/-- The issue of a command whose lengths passed the checks keeps the invariant (R221, R223). -/
theorem State.Inv.issue {s : State} (h : s.Inv) {w : Word} {c : Command}
    (hv : validate w s.keyLen s.inLen s.outLen s.bufBytes = .ok c) : (s.issue c).Inv where
  inWf := h.inWf
  outWf := h.outWf
  inBelow := h.inBelow
  outBelow := h.outBelow
  busyClear _ := ⟨rfl, rfl⟩
  errDone he := absurd rfl he
  errCode := Nat.zero_le 5
  sequencer _ := by
    obtain ⟨-, -, hmod, -, hle⟩ := (validate_eq_ok_iff ..).1 hv
    change 0 ≤ s.inLen.toNat / 8 ∧ s.inLen.toNat = 8 * (s.inLen.toNat / 8) ∧ 8 * (s.inLen.toNat / 8) ≤ s.bufBytes
    rw [Config.blockSize] at hmod
    omega

theorem State.Inv.writeCtrl {s : State} (h : s.Inv) (hp : s.phase = .idle) (d : Word) : (s.writeCtrl d).Inv := by
  have hstored : State.Inv { s with ctrl := d.extractLsb' 1 31 } := h.of_eq rfl
  obtain ⟨-, e⟩ | ⟨e, -, -, e'⟩ | ⟨c, -, -, hv, e⟩ := s.writeCtrl_cases d
  · rw [e]; exact hstored
  · rw [e']; exact hstored.errorComplete hp e
  · rw [e]; exact hstored.issue hv

/-- A STATUS write clears DONE and ERR together or leaves both (R265). -/
theorem State.Inv.writeStatus {s : State} (h : s.Inv) (d : Word) : (s.writeStatus d).Inv := by
  unfold State.writeStatus
  split
  · exact ⟨h.inWf, h.outWf, h.inBelow, h.outBelow, fun _ => ⟨rfl, rfl⟩, fun he => absurd rfl he, Nat.zero_le 5,
      h.sequencer⟩
  · exact h

/-- A write by slot keeps the invariant, when a buffer word lies in its buffer as a whole (R79, R263). -/
theorem State.Inv.writeSlot {s : State} (h : s.Inv) (hp : s.phase = .idle) (d : Word) {slot : Slot}
    (hw : ∀ j, slot = .inBuf j ∨ slot = .outBuf j → j + 4 ≤ s.bufBytes) : (s.writeSlot d slot).Inv := by
  cases slot with
  | ctrl => exact h.writeCtrl hp d
  | status => exact h.writeStatus d
  | inBuf j =>
    exact { h with
      inWf := Memory.writeWord_wf _ _ _ h.inWf
      inBelow := Memory.writeWord_below _ _ _ _ h.inBelow (hw j (.inl rfl)) }
  | outBuf j =>
    exact { h with
      outWf := Memory.writeWord_wf _ _ _ h.outWf
      outBelow := Memory.writeWord_below _ _ _ _ h.outBelow (hw j (.inr rfl)) }
  | _ => exact h.of_eq rfl

theorem State.Inv.hostWrite {s : State} (h : s.Inv) (o : Offset) (d : Word) : (s.hostWrite o d).Inv := by
  obtain ⟨-, e⟩ | ⟨-, -, e⟩ | ⟨ha, hp, e⟩ := s.hostWrite_cases o d
  · rw [e]; exact h.of_eq rfl
  · rw [e]; exact h.of_eq rfl
  · rw [e]
    have haccepted : State.Inv { s with resp := .accepted } := h.of_eq rfl
    exact haccepted.writeSlot hp d fun j hj => (slotAt_buffer_word s o j ha hj).2

/-- Block compute keeps the command latch (R225). -/
theorem ecbCompute_cmd (x : Block) (e : Engine) : (ecbCompute x e).1.cmd = e.cmd :=
  (runCipher_frame _ _ _).1

theorem cbcCompute_cmd (x : Block) (e : Engine) : (cbcCompute x e).1.cmd = e.cmd := by
  unfold cbcCompute
  cases e.cmd.dir with
  | enc => exact (runCipher_frame _ _ _).1
  | dec => exact (runCipher_frame _ _ _).1

/-- A block write inside the command keeps the invariant: the block lies in the buffer, and `idx` stays at most
`cmd.nblk` (R41, R226). -/
theorem State.Inv.writeOutBlock {s : State} (h : s.Inv) (hb : s.phase = .busy)
    (hlt : s.engine.idx < s.engine.cmd.nblk) {r : Engine × Block} (hr : r.1.cmd = s.engine.cmd) :
    (s.writeOutBlock r).Inv := by
  obtain ⟨-, hn, hle⟩ := h.sequencer hb
  exact { h with
    outWf := Memory.writeBlock_wf _ _ _ h.outWf
    outBelow := Memory.writeBlock_below _ _ _ _ h.outBelow (show 8 * s.engine.idx + 8 ≤ s.bufBytes by omega)
    sequencer := fun _ => by
      simp only [State.SequencerOk, State.writeOutBlock_engine, hr]
      exact ⟨hlt, hn, hle⟩ }

/-- The completion step keeps the invariant (R229). -/
theorem State.Inv.complete {s : State} (h : s.Inv) : s.complete.Inv where
  inWf := h.inWf
  outWf := h.outWf
  inBelow := h.inBelow
  outBelow := h.outBelow
  busyClear := nofun
  errDone _ := rfl
  errCode := Nat.zero_le 5
  sequencer := nofun

theorem State.Inv.coreStep {s : State} (h : s.Inv) (hb : s.phase = .busy) : s.coreStep.Inv := by
  obtain ⟨-, -, e⟩ | ⟨x, hlt, -, -, e⟩ | ⟨x, hlt, -, -, e⟩ | ⟨-, e⟩ | ⟨-, e⟩ := s.coreStep_cases
  · rw [e]; exact h.of_eq rfl
  · rw [e]; exact h.writeOutBlock hb hlt (ecbCompute_cmd x _)
  · rw [e]; exact h.writeOutBlock hb hlt (cbcCompute_cmd x _)
  · rw [e]; exact h.complete
  · rw [e]; exact h

/-- Settles O36: each result of a step keeps the invariant, and none changes the capacity. -/
theorem everyStepKeepsTheInvariant : Obligations.EveryStepKeepsTheInvariant := by
  intro s t hs h
  have hr := stepResult_of_step h
  refine ⟨?_, hr.bufBlocks⟩
  have hawaiting : ∀ is ts, (s.awaiting is ts).Inv := fun _ _ => hs.of_eq rfl
  cases hr with
  | wait => exact hs
  | write is ts o d => exact (hawaiting is ts).hostWrite o d
  | read is is' ts o => exact ((hawaiting is ts).hostRead o).of_eq rfl
  | refuse is ts => exact hs.of_eq rfl
  | outside is ts => exact hs.of_eq rfl
  | reset is ts _ => exact State.Inv.applyReset _
  | core ts hb => exact (hawaiting s.inputs ts).coreStep hb

end Sys2Proof.Machine

/-! # The host's move and the window -/

namespace Sys2Proof.Machine

/-! ## Taking the next input -/

/-- An IDLE core takes the host's next input (R82). -/
theorem step_of_idle_input {s : State} {i : Input} {rest : List Input} (hi : s.inputs = i :: rest)
    (hp : s.phase = .idle) : step s = takeInput i { s with inputs := rest } := by
  simp only [step_of_idle hp, hostMove, hi]

/-- A BUSY core takes the host's next input on the host's move (R352). -/
theorem step_of_busy_input {s : State} {i : Input} {rest : List Input} {ts : List Agent} (hi : s.inputs = i :: rest)
    (hb : s.phase = .busy) (ht : s.turns = .host :: ts) : step s = takeInput i (s.awaiting rest ts) := by
  simp only [step_of_busy hb, busyCycle, hostMove, hi, ht]

theorem takeInput_txn {r : Record} {i : Instr} (h : decodeTxn r = .ok i) (s : State) :
    takeInput (.txn r) s = exec i s := by
  simp only [takeInput, h]

theorem takeInput_bus_inside {a : Nat} {o : Offset} (h : windowOffset a = some o) (b : Bool) (d : Word) (s : State) :
    takeInput (.bus b a d) s = exec (busInstr b o d) s := by
  simp only [takeInput, h]

theorem takeInput_bus_outside {a : Nat} (h : windowOffset a = none) (b : Bool) (d : Word) (s : State) :
    takeInput (.bus b a d) s = .next { s with resp := .notSelected } := by
  simp only [takeInput, h]

/-- Settles O4: a pending record is the host's next input, and its instruction is what that input performs. -/
theorem stepPerformsPendingRecord : Obligations.StepPerformsPendingRecord := by
  intro s r i rest hi hd
  refine ⟨fun hp => ?_, fun ts hb ht => ?_⟩
  · rw [step_of_idle_input hi hp, takeInput_txn hd]
  · rw [step_of_busy_input hi hb ht, takeInput_txn hd]

/-! ## The window -/

/-- The offset of an offset's bus address is that offset (R70). -/
@[simp] theorem windowOffset_busAddress (o : Offset) : windowOffset (busAddress o) = some o := by
  have hlt : o.toNat < Config.windowBytes := o.isLt
  unfold windowOffset busAddress
  rw [if_pos (by omega), Nat.add_sub_cancel_left, BitVec.ofNat_toNat, BitVec.setWidth_eq]

/-- The window is the 16 KiB from BASE on (R70, R79). -/
theorem windowOffset_isSome_iff (a : Nat) :
    (windowOffset a).isSome = true ↔ Config.base ≤ a ∧ a < Config.base + Config.windowBytes := by
  unfold windowOffset
  split
  · next h => exact iff_of_true rfl h
  · next h => exact iff_of_false nofun h

theorem windowOffset_eq_none {a : Nat} (h : a < Config.base ∨ Config.base + Config.windowBytes ≤ a) :
    windowOffset a = none := by
  rw [← Option.not_isSome_iff_eq_none, windowOffset_isSome_iff]
  omega

/-- Settles O9: an access in the window is the access at its offset, and the core takes no other. -/
theorem windowSelectsItsAddresses : Obligations.WindowSelectsItsAddresses := by
  refine ⟨windowOffset_busAddress, fun a => ?_, fun s o d rest => ?_, fun s b a d rest hi ha => ?_⟩
  · rw [windowOffset_isSome_iff, Config.windowBytes]
    omega
  · have haccess := takeInput_bus_inside (windowOffset_busAddress o)
    refine ⟨fun hp => ⟨fun hi => ?_, fun hi => ?_⟩, fun ts hb ht => ⟨fun hi => ?_, fun hi => ?_⟩⟩
    · rw [step_of_idle_input hi hp, haccess]; rfl
    · rw [step_of_idle_input hi hp, haccess]; rfl
    · rw [step_of_busy_input hi hb ht, haccess]; rfl
    · rw [step_of_busy_input hi hb ht, haccess]; rfl
  · have haccess := takeInput_bus_outside (windowOffset_eq_none ha) b d
    refine ⟨fun hp => ?_, fun ts hb ht => ?_⟩
    · rw [step_of_idle_input hi hp, haccess]
    · rw [step_of_busy_input hi hb ht, haccess]

end Sys2Proof.Machine

/-! # The accesses to registers and buffers -/

namespace Sys2Proof.Machine

/-! ## Refused accesses -/

theorem offsetAligned_eq_false {o : Offset} (h : o.toNat % 4 ≠ 0) : offsetAligned o = false :=
  Bool.eq_false_iff.2 fun ha => h ((offsetAligned_iff o).1 ha)

theorem State.hostRead_of_unaligned {o : Offset} (h : o.toNat % 4 ≠ 0) (s : State) : s.hostRead o = s.refuseAccess :=
  if_pos (offsetAligned_eq_false h)

theorem State.hostWrite_of_unaligned {o : Offset} (h : o.toNat % 4 ≠ 0) (s : State) (d : Word) :
    s.hostWrite o d = s.refuseAccess :=
  if_pos (offsetAligned_eq_false h)

/-- Settles O18: each of these accesses is the refused access, whatever the phase. -/
theorem unalignedOrNarrowAccessIsRefused : Obligations.UnalignedOrNarrowAccessIsRefused := by
  refine ⟨fun s o d ho => ⟨?_, ?_⟩, fun s width rest hi => ⟨fun hp => ?_, fun ts hb ht => ?_⟩⟩
  · rw [exec_rd32, State.hostRead_of_unaligned ho]; rfl
  · rw [exec_wr32, State.hostWrite_of_unaligned ho]; rfl
  · rw [step_of_idle_input hi hp]; rfl
  · rw [step_of_busy_input hi hb ht]; rfl

/-! ## Reads -/

/-- Settles O12: the four outcomes of a read, of which only the one that returns a value answers data. -/
theorem readChangesNoState : Obligations.ReadChangesNoState := by
  intro s o
  refine ⟨_, exec_rd32 s o, ?_⟩
  obtain ⟨-, h⟩ | ⟨-, -, -, h⟩ | ⟨-, -, v, -, h⟩ | ⟨-, -, -, h⟩ := s.hostRead_cases o
  all_goals rw [h]; refine ⟨rfl, ?_⟩
  · exact nofun
  · exact nofun
  · exact fun _ => rfl
  · exact nofun

/-- A read of an IDLE core returns the value of its slot (R260, R262). -/
theorem State.hostRead_of_value {s : State} {o : Offset} (ha : offsetAligned o = true) (hp : s.phase = .idle) {v : Word}
    (hv : s.readSlot (slotAt s.bufBytes o) = some v) : s.hostRead o = { s with resp := .data v } := by
  simp [State.hostRead, ha, hp, hv]

/-! ## Writes -/

/-- An aligned write to an IDLE core, when the slot of its offset is known (R261). -/
theorem exec_wr32_of_slot {s : State} {o : Offset} {slot : Slot} (ha : offsetAligned o = true) (hp : s.phase = .idle)
    (hs : slotAt s.bufBytes o = slot) (d : Word) :
    exec (.wr32 o d) s = .next ({ s with resp := .accepted }.writeSlot d slot) := by
  rw [exec_wr32, State.hostWrite_of_idle ha hp, hs]

/-- A word write sets its four bytes, the first from the word's top bits, and no other byte (R73, R263). -/
theorem Memory.read_writeWord_bytes (m : Memory) (a : Nat) (d : Word) :
    (m.writeWord a d).read a = some (d.extractLsb' 24 8) ∧
    (m.writeWord a d).read (a + 1) = some (d.extractLsb' 16 8) ∧
    (m.writeWord a d).read (a + 2) = some (d.extractLsb' 8 8) ∧
    (m.writeWord a d).read (a + 3) = some (d.extractLsb' 0 8) ∧
    ∀ b, (b < a ∨ a + 4 ≤ b) → (m.writeWord a d).read b = m.read b := by
  refine ⟨?_, ?_, ?_, ?_, fun b hb => m.read_writeWord_other d hb⟩
  all_goals simp [Memory.read_writeWord, wordByte]

/-- Settles O13: each offset selects its slot, and a write of the slot has the effect of its row. -/
theorem writeHasTheTablesEffect : Obligations.WriteHasTheTablesEffect := by
  intro s o d ha hp
  refine ⟨?ie, ?keyLen, ?inLen, ?outLen, ?key0, ?key1, ?key2, ?key3, ?key4, ?key5, ?iv0, ?iv1, ?inBuf, ?outBuf,
    ?reserved⟩
  case inBuf =>
    exact fun k hk ho => ⟨_, exec_wr32_of_slot ha hp (slotAt_inBuf s o _ hk ho) d, s.inBuf.read_writeWord_bytes _ d⟩
  case outBuf =>
    exact fun k hk ho => ⟨_, exec_wr32_of_slot ha hp (slotAt_outBuf s o _ hk ho) d, s.outBuf.read_writeWord_bytes _ d⟩
  case reserved =>
    have hB := s.bufBytes_legal
    exact fun hr => exec_wr32_of_slot ha hp (slotAt_reserved s o (by omega)) d
  all_goals
    rintro rfl
    exact exec_wr32_of_slot rfl hp rfl d

/-! ## A read after a write -/

@[simp] theorem KeyStore.get_set_same (k : KeyStore) (w : Fin 6) (d : Word) : (k.set w d).get w = d := by
  fin_cases w <;> rfl

@[simp] theorem IvStore.get_set_same (iv : IvStore) (w : Fin 2) (d : Word) : (iv.set w d).get w = d := by
  fin_cases w <;> rfl

/-- The slots that hold a whole word return the word written (R262, R263). -/
theorem State.readSlot_writeSlot (s : State) (d : Word) {slot : Slot} (hctrl : slot ≠ .ctrl) (hstatus : slot ≠ .status)
    (hirqEn : slot ≠ .irqEn) (hreserved : slot ≠ .reserved) : (s.writeSlot d slot).readSlot slot = some d := by
  cases slot with
  | ctrl => exact absurd rfl hctrl
  | status => exact absurd rfl hstatus
  | irqEn => exact absurd rfl hirqEn
  | keyLen => rfl
  | inLen => rfl
  | outLen => rfl
  | key w => exact congrArg some (s.key.get_set_same w d)
  | iv w => exact congrArg some (s.iv.get_set_same w d)
  | inBuf j => exact s.inBuf.readWord_writeWord j d
  | outBuf j => exact s.outBuf.readWord_writeWord j d
  | reserved => exact absurd rfl hreserved

@[simp] theorem State.writeSlot_bufBytes (s : State) (d : Word) (slot : Slot) :
    (s.writeSlot d slot).bufBytes = s.bufBytes := by
  unfold State.bufBytes
  rw [(s.writeSlot_frame d slot).1]

/-- A read right after an aligned write of an IDLE core returns the word, when its slot holds a whole word (R82). -/
theorem exec_rd32_writeSlot {s : State} {o : Offset} (ha : offsetAligned o = true) (hp : s.phase = .idle) (d : Word)
    (hctrl : slotAt s.bufBytes o ≠ .ctrl) (hstatus : slotAt s.bufBytes o ≠ .status)
    (hirqEn : slotAt s.bufBytes o ≠ .irqEn) (hreserved : slotAt s.bufBytes o ≠ .reserved) :
    exec (.rd32 o) (s.writeSlot d (slotAt s.bufBytes o)) =
      .next { s.writeSlot d (slotAt s.bufBytes o) with resp := .data d } := by
  obtain ⟨hphase, -⟩ := s.writeSlot_sequencer d hctrl
  have hvalue := s.readSlot_writeSlot d hctrl hstatus hirqEn hreserved
  rw [exec_rd32, State.hostRead_of_value ha (hphase.trans hp) (by rwa [State.writeSlot_bufBytes])]

/-- The offsets of the fourteen registers (R33). -/
abbrev registerOffsets : List Nat :=
  [0x000, 0x004, 0x008, 0x00C, 0x010, 0x014, 0x020, 0x024, 0x028, 0x02C, 0x030, 0x034, 0x040, 0x044]

theorem slotAt_register_ne_reserved (bufBytes : Nat) :
    ∀ v ∈ registerOffsets, slotAt bufBytes (BitVec.ofNat 14 v) ≠ .reserved := by
  simp [slotAt]

theorem bufferSlot_eq_reserved {bufBytes a : Nat} (h : bufferSlot bufBytes a = .reserved) :
    ¬ (0x1000 ≤ a ∧ a < 0x1000 + bufBytes) ∧ ¬ (0x2000 ≤ a ∧ a < 0x2000 + bufBytes) := by
  unfold bufferSlot at h
  split at h
  · cases h
  next hin =>
    split at h
    · cases h
    next hout => exact ⟨hin, hout⟩

/-- An aligned offset that selects no register and no buffer word is one of the map's reserved offsets (R71). -/
theorem reservedOffset_of_slotAt {bufBytes : Nat} {o : Offset} (ha : offsetAligned o = true)
    (h : slotAt bufBytes o = .reserved) : reservedOffset bufBytes o.toNat := by
  have hne : ∀ v ∈ registerOffsets, o.toNat ≠ v := by
    rintro v hv rfl
    exact slotAt_register_ne_reserved bufBytes _ hv (by simpa using h)
  rw [slotAt_of_no_register _ _ hne] at h
  obtain ⟨hin, hout⟩ := bufferSlot_eq_reserved h
  have h4 := (offsetAligned_iff o).1 ha
  simp only [List.mem_cons, List.not_mem_nil, or_false, forall_eq_or_imp, forall_eq] at hne
  omega

/-- Settles O16: a slot that holds a whole word returns it, and the write leaves the core IDLE and the map as it was. -/
theorem readReturnsTheLatestWrite : Obligations.ReadReturnsTheLatestWrite := by
  intro s o d hp ha hrange
  have hne : ∀ x : Offset, x.toNat < 0x00C → o ≠ x := by
    rintro x hx rfl
    omega
  have hctrl : slotAt s.bufBytes o ≠ .ctrl := slotAt_ne s rfl (hne 0x000#14 (by decide))
  have hstatus : slotAt s.bufBytes o ≠ .status := slotAt_ne s rfl (hne 0x004#14 (by decide))
  have hirqEn : slotAt s.bufBytes o ≠ .irqEn := slotAt_ne s rfl (hne 0x008#14 (by decide))
  have hreserved : slotAt s.bufBytes o ≠ .reserved := fun h => by
    have hr := reservedOffset_of_slotAt ha h
    have hB := s.bufBytes_legal
    omega
  exact ⟨_, exec_wr32_of_slot ha hp rfl d,
    exec_rd32_writeSlot (s := { s with resp := .accepted }) ha hp d hctrl hstatus hirqEn hreserved⟩

end Sys2Proof.Machine

/-! # Encoding and the pending input -/

namespace Sys2Proof.Machine

/-! ## Big-endian bytes and values are the same thing -/

/-- One more byte at the low end of a value: a step of `valueBE` (R11). -/
def appendByte {n : Nat} (acc : BitVec n) (b : Byte) : BitVec n := (acc <<< 8) ||| b.setWidth n

theorem valueBE_eq_foldl (n : Nat) (bs : List Byte) : valueBE n bs = bs.foldl appendByte 0#n := rfl

theorem getLsbD_appendByte {n : Nat} (acc : BitVec n) (b : Byte) {i : Nat} (hi : i < n) :
    (appendByte acc b).getLsbD i = if i < 8 then b.getLsbD i else acc.getLsbD (i - 8) := by
  rw [appendByte, BitVec.getLsbD_or, BitVec.getLsbD_shiftLeft, BitVec.getLsbD_setWidth]
  by_cases h : i < 8
  · simp [h, hi]
  · rw [BitVec.getLsbD_of_ge b i (not_lt.1 h)]
    simp [h, hi]

/-- The bytes appended to a value move it up by their width. -/
theorem getLsbD_foldl_appendByte {n : Nat} (bs : List Byte) (acc : BitVec n) {i : Nat} (hi : 8 * bs.length + i < n) :
    (bs.foldl appendByte acc).getLsbD (8 * bs.length + i) = acc.getLsbD i := by
  induction bs generalizing acc i with
  | nil => simp
  | cons b bs ih =>
    rw [List.length_cons] at hi
    rw [List.foldl_cons, List.length_cons, show 8 * (bs.length + 1) + i = 8 * bs.length + (i + 8) by omega,
      ih _ (by omega), getLsbD_appendByte _ _ (by omega), if_neg (by omega), Nat.add_sub_cancel]

/-- The low bytes of a value are the bytes last appended to it. -/
theorem bytesBE_foldl_appendByte {n : Nat} (bs : List Byte) (acc : BitVec n) (hn : 8 * bs.length ≤ n) :
    bytesBE (bs.foldl appendByte acc) bs.length = bs := by
  induction bs generalizing acc with
  | nil => rfl
  | cons b bs ih =>
    rw [List.length_cons] at hn
    have hhead : (bs.foldl appendByte (appendByte acc b)).extractLsb' (8 * bs.length) 8 = b := by
      apply BitVec.eq_of_getLsbD_eq
      intro i hi
      rw [BitVec.getLsbD_extractLsb', getLsbD_foldl_appendByte _ _ (by omega), getLsbD_appendByte _ _ (by omega)]
      simp [hi]
    rw [List.foldl_cons, List.length_cons, bytesBE, hhead, ih _ (by omega)]

/-- The value of a byte sequence gives the bytes back (R11). -/
theorem bytesBE_valueBE {n : Nat} {bs : List Byte} (hn : 8 * bs.length = n) :
    bytesBE (valueBE n bs) bs.length = bs := by
  rw [valueBE_eq_foldl, bytesBE_foldl_appendByte _ _ hn.le]

/-- A sequence of `k` bytes has a given value exactly when it is that value's bytes (R11). -/
theorem valueBE_eq_iff {n k : Nat} (hn : 8 * k = n) {bs : List Byte} (hbs : bs.length = k) (v : BitVec n) :
    valueBE n bs = v ↔ bs = bytesBE v k := by
  subst hbs
  constructor
  · rintro rfl; exact (bytesBE_valueBE hn).symm
  · intro h; rw [h, valueBE_bytesBE v _ hn]

/-! ## HOSTTXN records -/

theorem ofBool_getLsbD (r : Record) (i : Nat) : BitVec.ofBool (r.getLsbD i) = r.extractLsb' i 1 := by
  ext j hj
  obtain rfl : j = 0 := by omega
  simp

/-- A HOSTTXN record is its four fields (R102). -/
theorem record_eq_fields (r : Record) :
    r = BitVec.ofBool (recordWrite r) ++ BitVec.ofBool (recordReserved r) ++ recordOffset r ++ recordData r := by
  unfold recordWrite recordReserved recordOffset recordData
  rw [ofBool_getLsbD, ofBool_getLsbD, BitVec.extractLsb'_append_extractLsb'_eq_extractLsb' (show 47 = 46 + 1 from rfl),
    BitVec.extractLsb'_append_extractLsb'_eq_extractLsb' (show 46 = 32 + 14 from rfl),
    BitVec.extractLsb'_append_extractLsb'_eq_extractLsb' (show 32 = 0 + 32 from rfl)]
  exact BitVec.extractLsb'_eq_self.symm

/-- The fields of a record that is put together from W and RSVD, OFFSET and DATA (R102). -/
theorem fields_of_append (wr : BitVec 2) (o : Offset) (d : Word) :
    recordWrite (wr ++ o ++ d) = wr.getLsbD 1 ∧ recordReserved (wr ++ o ++ d) = wr.getLsbD 0 ∧
      recordOffset (wr ++ o ++ d) = o ∧ recordData (wr ++ o ++ d) = d := by
  refine ⟨?_, ?_, ?_, ?_⟩
  · rw [recordWrite, BitVec.getLsbD_append, BitVec.getLsbD_append]
    rfl
  · rw [recordReserved, BitVec.getLsbD_append, BitVec.getLsbD_append]
    rfl
  · apply BitVec.eq_of_getLsbD_eq
    intro i hi
    rw [recordOffset, BitVec.getLsbD_extractLsb', BitVec.getLsbD_append, BitVec.getLsbD_append]
    simp [hi]
  · apply BitVec.eq_of_getLsbD_eq
    intro i hi
    rw [recordData, BitVec.getLsbD_extractLsb', BitVec.getLsbD_append]
    simp [hi]

theorem decodeTxn_readRecord (o : Offset) : decodeTxn (readRecord o) = .ok (.rd32 o) := by
  obtain ⟨hw, hrsvd, ho, hdata⟩ := fields_of_append 0b00#2 o 0#32
  simp [decodeTxn, readRecord, hw, hrsvd, ho, hdata]

theorem decodeTxn_writeRecord (o : Offset) (d : Word) : decodeTxn (writeRecord o d) = .ok (.wr32 o d) := by
  obtain ⟨hw, hrsvd, ho, hdata⟩ := fields_of_append 0b10#2 o d
  simp [decodeTxn, writeRecord, hw, hrsvd, ho, hdata]

theorem decodeTxn_of_reserved {r : Record} (h : r.getLsbD 46 = true) : decodeTxn r = .error .reservedRecordBit :=
  if_pos h

/-- The records that decode are exactly the encodings of the two transactions (R102, R104). -/
theorem decodeTxn_eq_ok_iff (r : Record) (i : Instr) :
    decodeTxn r = .ok i ↔ (∃ o, i = .rd32 o ∧ r = readRecord o) ∨ ∃ o d, i = .wr32 o d ∧ r = writeRecord o d := by
  constructor
  · intro h
    have hr := record_eq_fields r
    unfold decodeTxn at h
    split at h
    · cases h
    next hrsvd =>
      rw [Bool.not_eq_true] at hrsvd
      split at h
      next hw =>
        cases h
        rw [hrsvd, hw] at hr
        exact .inr ⟨_, _, rfl, hr⟩
      next hw =>
        rw [Bool.not_eq_true] at hw
        split at h
        next hdata =>
          cases h
          rw [hrsvd, hw, hdata] at hr
          exact .inl ⟨_, rfl, hr⟩
        · cases h
  · rintro (⟨o, rfl, rfl⟩ | ⟨o, d, rfl, rfl⟩)
    · exact decodeTxn_readRecord o
    · exact decodeTxn_writeRecord o d

/-! ## Commands and their instructions -/

/-- The per-instruction law of the encoding, of every instruction. -/
theorem encoded : ∀ i : Instr, Laws.Encoded.Statement i
  | .desEcbEnc => Laws.Encoded.desEcbEnc
  | .desEcbDec => Laws.Encoded.desEcbDec
  | .tdes2EcbEnc => Laws.Encoded.tdes2EcbEnc
  | .tdes2EcbDec => Laws.Encoded.tdes2EcbDec
  | .tdes3EcbEnc => Laws.Encoded.tdes3EcbEnc
  | .tdes3EcbDec => Laws.Encoded.tdes3EcbDec
  | .desCbcEnc => Laws.Encoded.desCbcEnc
  | .desCbcDec => Laws.Encoded.desCbcDec
  | .tdes2CbcEnc => Laws.Encoded.tdes2CbcEnc
  | .tdes2CbcDec => Laws.Encoded.tdes2CbcDec
  | .tdes3CbcEnc => Laws.Encoded.tdes3CbcEnc
  | .tdes3CbcDec => Laws.Encoded.tdes3CbcDec
  | .rd32 o => Laws.Encoded.rd32 o
  | .wr32 o d => Laws.Encoded.wr32 o d

theorem length_encode (i : Instr) : (encode i).length = i.format.bytes := (encoded i).1

theorem command_instr (c : Command) : c.instr.command = some c := by
  obtain ⟨m, T, d⟩ := c
  cases m <;> cases T <;> cases d <;> rfl

theorem encode_instr (c : Command) : encode c.instr = bytesBE c.word 4 := by
  obtain ⟨m, T, d⟩ := c
  cases m <;> cases T <;> cases d <;> rfl

/-- A command's instruction is performed as the CTRL write of its word (R103, R110). -/
theorem exec_instr (c : Command) (s : State) : exec c.instr s = exec (.wr32 0x000#14 c.word) s := by
  obtain ⟨m, T, d⟩ := c
  cases m <;> cases T <;> cases d <;> rfl

/-- The instructions encoded as a CTRL word are the commands (R100, R104). -/
theorem format_eq_ctrl_iff (i : Instr) : i.format = .ctrl ↔ ∃ c : Command, c.instr = i :=
  ⟨fun h => ((encoded i).2.1 h).imp fun _ hc => hc.2,
    fun ⟨c, hc⟩ => (encoded i).2.2 ⟨c, hc ▸ command_instr c, hc⟩⟩

theorem format_eq_hosttxn_iff (i : Instr) :
    i.format = .hosttxn ↔ (∃ o, i = .rd32 o) ∨ ∃ o d, i = .wr32 o d := by
  cases i <;> simp [Instr.format]

/-! ## Decoding bytes -/

theorem exceptMap_eq_ok_iff {ε α β : Type} (g : α → β) (x : Except ε α) (b : β) :
    x.map g = .ok b ↔ ∃ a, x = .ok a ∧ g a = b := by
  cases x <;> simp [Except.map]

/-- The decoding of the bytes of one encoding, without those that follow (R100). -/
def parseBytes : Format → List Byte → Except DecodeError Instr
  | .ctrl, bs => (decodeCtrl (valueBE 32 bs)).map Command.instr
  | .hosttxn, bs => decodeTxn (valueBE 48 bs)

theorem parseBytes_ctrl_eq_ok_iff (bs : List Byte) (i : Instr) :
    parseBytes .ctrl bs = .ok i ↔ ∃ c, decodeCtrl (valueBE 32 bs) = .ok c ∧ c.instr = i :=
  exceptMap_eq_ok_iff ..

theorem parseBytes_hosttxn (bs : List Byte) : parseBytes .hosttxn bs = decodeTxn (valueBE 48 bs) := rfl

/-- Decoding takes the bytes of one encoding off and returns the others (R100, R108). -/
theorem decode_eq_ok_iff (f : Format) (bs : List Byte) (i : Instr) (rest : List Byte) :
    decode f bs = .ok (i, rest) ↔
      f.bytes ≤ bs.length ∧ parseBytes f (bs.take f.bytes) = .ok i ∧ bs.drop f.bytes = rest := by
  unfold decode
  split
  next hlt => exact iff_of_false nofun fun h => absurd h.1 hlt.not_ge
  next hlen =>
    rw [and_iff_right (not_lt.1 hlen)]
    cases f with
    | ctrl =>
      rw [parseBytes_ctrl_eq_ok_iff, exceptMap_eq_ok_iff]
      simp only [Prod.mk.injEq, ← and_assoc, exists_and_right, Format.bytes]
    | hosttxn =>
      rw [parseBytes_hosttxn, exceptMap_eq_ok_iff]
      simp [Format.bytes]

/-- Every instruction's encoding decodes to it (R100, R104). -/
theorem parseBytes_encode (i : Instr) : parseBytes i.format (encode i) = .ok i := by
  cases hf : i.format with
  | ctrl =>
    obtain ⟨c, rfl⟩ := (format_eq_ctrl_iff i).1 hf
    rw [parseBytes_ctrl_eq_ok_iff, encode_instr, valueBE_bytesBE _ 4 rfl]
    exact ⟨c, decodeCtrl_word c, rfl⟩
  | hosttxn =>
    rw [parseBytes_hosttxn]
    obtain ⟨o, rfl⟩ | ⟨o, d, rfl⟩ := (format_eq_hosttxn_iff i).1 hf
    · rw [encode, valueBE_bytesBE _ 6 rfl, decodeTxn_readRecord]
    · rw [encode, valueBE_bytesBE _ 6 rfl, decodeTxn_writeRecord]

/-- As many bytes as the format has decode to no instruction but the one they encode (R100, R105). -/
theorem eq_encode_of_parseBytes {f : Format} {bs : List Byte} (hbs : bs.length = f.bytes) {i : Instr}
    (h : parseBytes f bs = .ok i) : i.format = f ∧ bs = encode i := by
  cases f with
  | ctrl =>
    obtain ⟨c, hc, rfl⟩ := (parseBytes_ctrl_eq_ok_iff bs i).1 h
    rw [decodeCtrl_eq_ok_iff, valueBE_eq_iff (k := 4) rfl hbs] at hc
    exact ⟨(format_eq_ctrl_iff _).2 ⟨c, rfl⟩, by rw [encode_instr, hc]⟩
  | hosttxn =>
    obtain ⟨o, rfl, hr⟩ | ⟨o, d, rfl, hr⟩ := (decodeTxn_eq_ok_iff _ _).1 h
    · exact ⟨rfl, (valueBE_eq_iff (k := 6) rfl hbs _).1 hr⟩
    · exact ⟨rfl, (valueBE_eq_iff (k := 6) rfl hbs _).1 hr⟩

/-- Settles O2: a byte sequence is its first bytes, which decode exactly when they are an encoding, and the rest. -/
theorem decodeExactlyInvertsEncode : Obligations.DecodeExactlyInvertsEncode := by
  intro f i bs rest
  rw [decode_eq_ok_iff]
  constructor
  · rintro ⟨hlen, hparse, rfl⟩
    obtain ⟨hf, htake⟩ := eq_encode_of_parseBytes (List.length_take_of_le hlen) hparse
    exact ⟨hf, by rw [← htake, List.take_append_drop]⟩
  · rintro ⟨rfl, rfl⟩
    rw [← length_encode, List.take_left, List.drop_left]
    exact ⟨by simp, parseBytes_encode i, rfl⟩

/-- Settles O3: the words of the table are the words of the commands, and these are the words that decode. -/
theorem exactlyTwelveWordsAreCommands : Obligations.ExactlyTwelveWordsAreCommands := by
  refine ⟨fun w c => ?_, by decide, rfl, by decide⟩
  rw [decodeCtrl_eq_ok_iff]
  constructor
  · rintro rfl
    exact ⟨_, mem_commandTable c, rfl, rfl⟩
  · rintro ⟨row, hrow, rfl, rfl⟩
    exact word_of_mem_commandTable row hrow

/-- Settles O1: seven fixed words and records, decoded. -/
theorem sampleWordsDecodeToTheirRows : Obligations.SampleWordsDecodeToTheirRows := by
  unfold Obligations.SampleWordsDecodeToTheirRows
  decide

/-- Settles O23: a row holds its command's word and instruction, and a command is the write of its word. -/
theorem commandIsTheWriteOfItsWord : Obligations.CommandIsTheWriteOfItsWord := by
  have hinstr : ∀ row ∈ commandTable, row.2.1 = row.2.2.instr := by decide
  intro row hrow s
  rw [hinstr row hrow, word_of_mem_commandTable row hrow]
  exact ⟨exec_instr _ s, command_instr _⟩

/-! ## Placed encodings -/

/-- A placed input is taken by the next step, from the state it was placed in. -/
theorem step_withFetchWord {nbits w : Nat} {input : Input} (h : tableInput nbits w = some input) (s : State) :
    step (s.withFetchWord nbits w) = takeInput input s := by
  cases hp : s.phase with
  | idle =>
    have hplaced : s.withFetchWord nbits w = { s with inputs := input :: s.inputs } := by
      simp only [State.withFetchWord, placeInput, h, hp]
    rw [hplaced]
    exact step_of_idle_input rfl hp
  | busy =>
    have hplaced : s.withFetchWord nbits w = s.awaiting (input :: s.inputs) (.host :: s.turns) := by
      simp only [State.withFetchWord, placeInput, h, hp, State.awaiting]
    rw [hplaced]
    exact step_of_busy_input rfl hp rfl

theorem takeInput_cmd {w : Word} {c : Command} (h : decodeCtrl w = .ok c) (s : State) :
    takeInput (.cmd w) s = exec c.instr s := by
  simp only [takeInput, cmdInstr, h]

/-- Decoding the bytes of a value decodes the value. -/
theorem parseBytes_of_decode {f : Format} {bs : List Byte} (hlen : bs.length = f.bytes) {i : Instr}
    (h : ((decode f bs).toOption).map Prod.fst = some i) : parseBytes f bs = .ok i := by
  cases hd : decode f bs with
  | error e => rw [hd] at h; cases h
  | ok p =>
    rw [hd] at h
    cases h
    obtain ⟨-, hparse, -⟩ := (decode_eq_ok_iff f bs p.1 p.2).1 hd
    rwa [← hlen, List.take_length] at hparse

/-- The bits of an instruction are delivered as an input that performs it (R100, R104). -/
theorem tableInput_of_decodeTableWord {nbits w : Nat} {i : Instr} (h : decodeTableWord nbits w = some i) :
    ∃ input, tableInput nbits w = some input ∧ ∀ s, takeInput input s = exec i s := by
  unfold decodeTableWord at h
  unfold tableInput
  split at h
  next h32 =>
    have hparse := parseBytes_of_decode (length_bytesBE _ 4) h
    rw [parseBytes_ctrl_eq_ok_iff, valueBE_bytesBE _ 4 rfl] at hparse
    obtain ⟨c, hc, rfl⟩ := hparse
    exact ⟨_, if_pos h32, takeInput_cmd hc⟩
  next h32 =>
    split at h
    next h48 =>
      have hparse := parseBytes_of_decode (length_bytesBE _ 6) h
      rw [parseBytes_hosttxn, valueBE_bytesBE _ 6 rfl] at hparse
      exact ⟨_, (if_neg h32).trans (if_pos h48), takeInput_txn hparse⟩
    · cases h

/-- Settles O5: the bits are placed as an input that the next step takes and that performs their instruction. -/
theorem placedEncodingIsPerformedNext : Obligations.PlacedEncodingIsPerformedNext := by
  intro s nbits w i h
  obtain ⟨input, hinput, hexec⟩ := tableInput_of_decodeTableWord h
  rw [step_withFetchWord hinput, hexec]

/-! ## How a step stops -/

theorem takeInput_txn_error {r : Record} {e : DecodeError} (h : decodeTxn r = .error e) (s : State) :
    takeInput (.txn r) s = .refused (.notATransaction e) := by
  simp only [takeInput, h]

/-- Settles O7: the pending record is taken, and its reserved bit keeps it from decoding. -/
theorem reservedRecordBitIsRefused : Obligations.ReservedRecordBitIsRefused := by
  intro s r rest hp hi hr
  rw [step_of_idle_input hi hp, takeInput_txn_error (decodeTxn_of_reserved hr)]

/-- An input is performed, or it is a record that does not decode (R102, R270). -/
theorem takeInput_next_or_refused (input : Input) (s : State) :
    (∃ t, takeInput input s = .next t) ∨
    ∃ r e, input = .txn r ∧ decodeTxn r = .error e ∧ takeInput input s = .refused (.notATransaction e) := by
  obtain ⟨_, _, h⟩ | ⟨_, h⟩ | ⟨-, h⟩ | h | h | ⟨-, h⟩ | h := takeInput_cases input s
  case inr.inr.inr.inr.inr.inr => exact .inr h
  all_goals exact .inl ⟨_, h⟩

/-- A step has a next state of its own, or takes the host's next input (R82). -/
theorem step_next_or_takeInput (s : State) :
    (∃ t, step s = .next t) ∨ ∃ input rest s', s.inputs = input :: rest ∧ step s = takeInput input s' := by
  obtain ⟨-, -, h⟩ | ⟨_, _, hi, -, h⟩ | ⟨_, _, _, hi, -, -, h⟩ | ⟨-, -, h⟩ | ⟨_, _, _, -, -, -, h⟩ := step_cases s
  · exact .inl ⟨_, h⟩
  · exact .inr ⟨_, _, _, hi, h⟩
  · exact .inr ⟨_, _, _, hi, h⟩
  · exact .inl ⟨_, h⟩
  · exact .inl ⟨_, h⟩

/-- A step has a next state, or the next input is a record that does not decode (R102, R270). -/
theorem step_next_or_refused (s : State) :
    (∃ t, step s = .next t) ∨
    ∃ r rest e, s.inputs = .txn r :: rest ∧ decodeTxn r = .error e ∧ step s = .refused (.notATransaction e) := by
  obtain h | ⟨input, rest, s', hi, hs⟩ := step_next_or_takeInput s
  · exact .inl h
  · rw [hs]
    obtain h | ⟨r, e, rfl, hd, h⟩ := takeInput_next_or_refused input s'
    · exact .inl h
    · exact .inr ⟨r, rest, e, hi, hd, h⟩

/-- Settles O6: of a step's two outcomes neither is a fault, and one is the refusal of a pending record. -/
theorem stepStopsOnlyOnNonTransactions : Obligations.StepStopsOnlyOnNonTransactions := by
  intro s
  obtain ⟨t, h⟩ | ⟨r, rest, e, hi, hd, h⟩ := step_next_or_refused s
  · rw [h]
    exact ⟨nofun, nofun⟩
  · rw [h]
    exact ⟨nofun, fun x hx => ⟨r, rest, e, hi, hd, by cases hx; rfl⟩⟩

/-! ## POLL -/

/-- The word a STATUS read returns is R262's formula. -/
theorem State.statusWord_eq_statusValue (s : State) : s.statusWord = statusValue s := by
  unfold State.statusWord statusValue State.busy
  generalize s.err = e
  revert e
  cases s.done <;> cases s.phase <;> decide

/-- BUSY is bit 0 of STATUS (R35). -/
theorem State.getLsbD_zero_statusWord (s : State) : s.statusWord.getLsbD 0 = s.busy := by
  unfold State.statusWord
  rw [BitVec.getLsbD_append]
  simp

/-- A STATUS read returns its value in every phase (R260, R350). -/
theorem State.hostRead_status (s : State) : s.hostRead 0x004#14 = { s with resp := .data s.statusWord } := by
  unfold State.hostRead
  rw [if_neg (by decide), if_neg (by simp)]
  rfl

/-- POLL goes on after a STATUS read exactly while the core is BUSY (R110). -/
theorem pollAgain_statusWord (s : State) : pollAgain (.data s.statusWord) = s.busy := s.getLsbD_zero_statusWord

/-- The read of a POLL ends it in an IDLE core (R110). -/
theorem pollOnce_of_idle {s : State} (hp : s.phase = .idle) :
    pollOnce s = .next { s with resp := .data s.statusWord } := by
  simp [pollOnce, exec_rd32, State.hostRead_status, pollAgain_statusWord, State.busy, hp]

/-- The read of a POLL puts it back in front of the inputs of a BUSY core (R110). -/
theorem pollOnce_of_busy {s : State} (hb : s.phase = .busy) :
    pollOnce s = .next { s with resp := .data s.statusWord, inputs := .poll :: s.inputs } := by
  simp [pollOnce, exec_rd32, State.hostRead_status, pollAgain_statusWord, State.busy, hb]

/-- Settles O8: the read of an IDLE core ends the POLL; that of a BUSY one puts it back in front. -/
theorem pollRepeatsUntilBusyIsClear : Obligations.PollRepeatsUntilBusyIsClear := by
  intro s rest hi
  rw [← s.statusWord_eq_statusValue]
  refine ⟨fun hp => ?_, fun ts hb ht => ?_⟩
  · have hread : pollOnce { s with inputs := rest } = _ := pollOnce_of_idle hp
    rw [step_of_idle_input hi hp, takeInput, hread]; rfl
  · have hread : pollOnce (s.awaiting rest ts) = _ := pollOnce_of_busy hb
    rw [step_of_busy_input hi hb ht, takeInput, hread, hi]; rfl

/-! ## CTRL writes -/

/-- Settles O14: the write is the store of the bits, with the answer of the port. -/
theorem ctrlWriteWithoutStartOnlyStores : Obligations.CtrlWriteWithoutStartOnlyStores := by
  intro s d hp hd
  refine ⟨_, exec_wr32 s _ d, ?_⟩
  rw [State.hostWrite_ctrl_of_idle hp, State.writeCtrl_of_no_start _ hd]

end Sys2Proof.Machine

/-! # The DES engine -/

namespace Sys2Proof.Machine

/-! ## Selection tables -/

/-- The entry a table has for DES bit `i` is one of its entries (R141). -/
theorem getD_pred_mem {table : List Nat} {i : Nat} (h1 : 1 ≤ i) (hi : i ≤ table.length) :
    table.getD (i - 1) 0 ∈ table := by
  rw [List.getD_eq_getElem _ _ (by omega)]
  exact List.getElem_mem _

/-- A selection of a selection, by tables whose lookups in turn give each index back, is the identity (R141, R143). -/
theorem perm_perm_inverse {n : Nat} {table back : List Nat} (ht : table.length = n) (hb : back.length = n)
    (hrange : ∀ j ∈ back, 1 ≤ j ∧ j ≤ n) (hinv : ∀ i < n, table.getD (back.getD i 0 - 1) 0 = i + 1) (v : BitVec n) :
    perm n back (perm n table v) = v := by
  apply eq_of_bitD
  intro i h1 hn
  obtain ⟨hlo, hhi⟩ := hrange _ (getD_pred_mem h1 (hb ▸ hn))
  rw [bitD_perm back _ hb i h1 hn, bitD_perm table _ ht _ hlo hhi, hinv _ (by omega), Nat.sub_add_cancel h1]

/-- A selection depends on the bits its table lists and on no other (R141). -/
theorem perm_congr {n m : Nat} {table : List Nat} {v w : BitVec n} (h : ∀ j ∈ table, bitD v j = bitD w j) :
    perm m table v = perm m table w :=
  List.foldl_ext _ _ _ fun u j hj => congrArg u.shiftConcat (h j hj)

theorem bitD_not {n : Nat} (v : BitVec n) {j : Nat} (h1 : 1 ≤ j) (hn : j ≤ n) : bitD (~~~v) j = !bitD v j := by
  simp [bitD, show n - j < n by omega]

/-- A selection of the complement is the complement of the selection (R141). -/
theorem perm_not {n m : Nat} {table : List Nat} (hm : table.length = m) (hrange : ∀ j ∈ table, 1 ≤ j ∧ j ≤ n)
    (v : BitVec n) : perm m table (~~~v) = ~~~(perm m table v) := by
  apply eq_of_bitD
  intro i h1 hi
  obtain ⟨hlo, hhi⟩ := hrange _ (getD_pred_mem h1 (hm ▸ hi))
  rw [bitD_not _ h1 hi, bitD_perm table _ hm i h1 hi, bitD_perm table _ hm i h1 hi, bitD_not _ hlo hhi]

/-! ## The initial and the final permutation -/

@[simp] theorem perm_IPinv_IP (v : Block) : perm 64 tableIPinv (perm 64 tableIP v) = v :=
  perm_perm_inverse (by decide) (by decide) (by decide) (by decide) v

@[simp] theorem perm_IP_IPinv (v : Block) : perm 64 tableIP (perm 64 tableIPinv v) = v :=
  perm_perm_inverse (by decide) (by decide) (by decide) (by decide) v

/-- Settles O38: each table looks up, through the other, every index again. -/
theorem finalPermutationInvertsInitial : Obligations.FinalPermutationInvertsInitial :=
  fun v => ⟨perm_IPinv_IP v, perm_IP_IPinv v⟩

/-! ## Decryption inverts encryption -/

@[simp] theorem blockL0_finalBlock (lr : BitVec 32 × BitVec 32) : blockL0 (finalBlock lr) = lr.2 := by
  rw [blockL0, finalBlock, perm_IP_IPinv, BitVec.extractLsb'_append_eq_left]

@[simp] theorem blockR0_finalBlock (lr : BitVec 32 × BitVec 32) : blockR0 (finalBlock lr) = lr.1 := by
  rw [blockR0, finalBlock, perm_IP_IPinv, BitVec.extractLsb'_append_eq_right]

@[simp] theorem finalBlock_blockR0_blockL0 (v : Block) : finalBlock (blockR0 v, blockL0 v) = v := by
  rw [finalBlock, blockL0, blockR0, BitVec.extractLsb'_append_extractLsb', perm_IPinv_IP]

/-- A round undoes itself on swapped halves, whatever the round function is (R166, R169). -/
theorem feistelRound_swap_feistelRound (lr : BitVec 32 × BitVec 32) (k : BitVec 48) :
    feistelRound (feistelRound lr k).swap k = lr.swap := by
  simp [feistelRound, Prod.swap]

/-- The rounds in reverse order, on swapped halves, undo the rounds (R166, R169). -/
theorem foldl_feistelRound_reverse_swap (ks : List (BitVec 48)) (lr : BitVec 32 × BitVec 32) :
    ks.reverse.foldl feistelRound (ks.foldl feistelRound lr).swap = lr.swap := by
  induction ks generalizing lr with
  | nil => rfl
  | cons k ks ih =>
    rw [List.reverse_cons, List.foldl_concat, List.foldl_cons, ih, feistelRound_swap_feistelRound]

/-- The block transform with its subkeys in reverse order undoes the block transform (R169). -/
theorem desWith_reverse_desWith (ks : List (BitVec 48)) (v : Block) : desWith ks.reverse (desWith ks v) = v := by
  calc desWith ks.reverse (desWith ks v)
      = finalBlock (ks.reverse.foldl feistelRound (ks.foldl feistelRound (blockL0 v, blockR0 v)).swap) := by
        simp only [desWith, blockL0_finalBlock, blockR0_finalBlock]; rfl
    _ = finalBlock (blockR0 v, blockL0 v) := congrArg finalBlock (foldl_feistelRound_reverse_swap ks _)
    _ = v := finalBlock_blockR0_blockL0 v

@[simp] theorem desDec_desEnc (key b : Block) : desDec key (desEnc key b) = b :=
  desWith_reverse_desWith (keySchedule key) b

@[simp] theorem desEnc_desDec (key b : Block) : desEnc key (desDec key b) = b := by
  have h := desWith_reverse_desWith (keySchedule key).reverse b
  rwa [List.reverse_reverse] at h

/-- Settles O39: each direction runs the other's rounds backwards. -/
theorem desDecryptionInvertsEncryption : Obligations.DesDecryptionInvertsEncryption :=
  fun key b => ⟨desDec_desEnc key b, desEnc_desDec key b⟩

/-! ## Parity bits -/

theorem length_subkeysFrom (c d : BitVec 28) (ss : List Nat) : (subkeysFrom c d ss).length = ss.length := by
  induction ss generalizing c d with
  | nil => rfl
  | cons s ss ih => rw [subkeysFrom, List.length_cons, List.length_cons, ih]

theorem length_keySchedule (k : Block) : (keySchedule k).length = 16 :=
  length_subkeysFrom (keyC0 k) (keyD0 k) leftShifts

/-- PC1 takes none of the bits 8, 16, ..., 64 of a key (R146, R154). -/
theorem bitD_parityMask_of_mem_PC1 : ∀ j ∈ tablePC1, bitD 0xFEFEFEFEFEFEFEFE#64 j = true := by decide

theorem perm_PC1_congr {k k' : Block} (h : k &&& 0xFEFEFEFEFEFEFEFE#64 = k' &&& 0xFEFEFEFEFEFEFEFE#64) :
    perm 56 tablePC1 k = perm 56 tablePC1 k' := by
  refine perm_congr fun j hj => ?_
  have hbit : bitD (k &&& 0xFEFEFEFEFEFEFEFE#64) j = bitD (k' &&& 0xFEFEFEFEFEFEFEFE#64) j := by rw [h]
  have hmask := bitD_parityMask_of_mem_PC1 j hj
  simp only [bitD, BitVec.getLsbD_and] at hbit hmask ⊢
  simpa only [hmask, Bool.and_true] using hbit

theorem keySchedule_congr {k k' : Block} (h : k &&& 0xFEFEFEFEFEFEFEFE#64 = k' &&& 0xFEFEFEFEFEFEFEFE#64) :
    keySchedule k = keySchedule k' := by
  simp only [keySchedule, keyC0, keyD0, perm_PC1_congr h]

/-- Settles O40: the key enters through PC1 alone, which takes no parity bit. -/
theorem parityBitsDoNotMatter : Obligations.ParityBitsDoNotMatter := by
  intro k k' h
  have hks := keySchedule_congr h
  refine ⟨hks, length_keySchedule k, fun b => ⟨?_, ?_⟩⟩
  · rw [desEnc, hks, desEnc]
  · rw [desDec, hks, desDec]

/-! ## Complementation -/

theorem extractLsb'_not {n : Nat} (v : BitVec n) {i k : Nat} (h : i + k ≤ n) :
    (~~~v).extractLsb' i k = ~~~(v.extractLsb' i k) := by
  apply BitVec.eq_of_getLsbD_eq
  intro j hj
  simp [hj, show i + j < n by omega]

theorem rotl28_not (v : BitVec 28) {s : Nat} (hs : s ≤ 28) : rotl28 (~~~v) s = ~~~(rotl28 v s) := by
  apply BitVec.eq_of_getLsbD_eq
  intro i hi
  simp only [BitVec.getLsbD_not, getLsbD_rotl28 _ hs hi, hi, Nat.mod_lt _ (show 0 < 28 by omega), decide_true,
    Bool.true_and]

theorem subkey_not (c d : BitVec 28) : subkey (~~~c) (~~~d) = ~~~(subkey c d) := by
  have hPC2 : perm 48 tablePC2 (~~~(c ++ d)) = ~~~(perm 48 tablePC2 (c ++ d)) := perm_not (by decide) (by decide) _
  rw [subkey, ← BitVec.not_append, hPC2, subkey]

theorem subkeysFrom_not (c d : BitVec 28) {ss : List Nat} (hs : ∀ s ∈ ss, s ≤ 28) :
    subkeysFrom (~~~c) (~~~d) ss = (subkeysFrom c d ss).map (~~~·) := by
  induction ss generalizing c d with
  | nil => rfl
  | cons s ss ih =>
    obtain ⟨hle, hrest⟩ := List.forall_mem_cons.1 hs
    rw [subkeysFrom, subkeysFrom, rotl28_not c hle, rotl28_not d hle, subkey_not, ih _ _ hrest, List.map_cons]

/-- The schedule of the complement of a key is the complement of its schedule (R175). -/
theorem keySchedule_not (k : Block) : keySchedule (~~~k) = (keySchedule k).map (~~~·) := by
  have hPC1 : perm 56 tablePC1 (~~~k) = ~~~(perm 56 tablePC1 k) := perm_not (by decide) (by decide) k
  have hC : keyC0 (~~~k) = ~~~(keyC0 k) := by rw [keyC0, hPC1, extractLsb'_not _ (by omega), keyC0]
  have hD : keyD0 (~~~k) = ~~~(keyD0 k) := by rw [keyD0, hPC1, extractLsb'_not _ (by omega), keyD0]
  rw [keySchedule, hC, hD, subkeysFrom_not _ _ (by decide), keySchedule]

/-- The two complements cancel in the mix of the expanded half with the subkey (R161, R175). -/
theorem roundF_not (r : BitVec 32) (k : BitVec 48) : roundF (~~~r) (~~~k) = roundF r k := by
  have hE : perm 48 tableE (~~~r) = ~~~(perm 48 tableE r) := perm_not (by decide) (by decide) r
  rw [roundF, hE, ← BitVec.not_xor_left, ← BitVec.not_xor_right, BitVec.not_not, roundF]

/-- The complement of both halves. -/
def notHalves (lr : BitVec 32 × BitVec 32) : BitVec 32 × BitVec 32 := (~~~lr.1, ~~~lr.2)

theorem feistelRound_not (lr : BitVec 32 × BitVec 32) (k : BitVec 48) :
    feistelRound (notHalves lr) (~~~k) = notHalves (feistelRound lr k) := by
  simp only [feistelRound, notHalves, roundF_not, BitVec.not_xor_left]

theorem foldl_feistelRound_not (ks : List (BitVec 48)) (lr : BitVec 32 × BitVec 32) :
    (ks.map (~~~·)).foldl feistelRound (notHalves lr) = notHalves (ks.foldl feistelRound lr) := by
  rw [List.foldl_map]
  exact List.foldl_hom notHalves feistelRound_not

theorem initialHalves_not (v : Block) : (blockL0 (~~~v), blockR0 (~~~v)) = notHalves (blockL0 v, blockR0 v) := by
  have hIP : perm 64 tableIP (~~~v) = ~~~(perm 64 tableIP v) := perm_not (by decide) (by decide) v
  simp only [blockL0, blockR0, notHalves, hIP, extractLsb'_not _ (show 32 + 32 ≤ 64 by omega),
    extractLsb'_not _ (show 0 + 32 ≤ 64 by omega)]

theorem finalBlock_not (lr : BitVec 32 × BitVec 32) : finalBlock (notHalves lr) = ~~~(finalBlock lr) := by
  have hIPinv : perm 64 tableIPinv (~~~(lr.2 ++ lr.1)) = ~~~(perm 64 tableIPinv (lr.2 ++ lr.1)) :=
    perm_not (by decide) (by decide) _
  rw [finalBlock, notHalves, ← BitVec.not_append, hIPinv, finalBlock]

/-- The block transform of the complement under the complemented subkeys is the complement (R175). -/
theorem desWith_not (ks : List (BitVec 48)) (v : Block) : desWith (ks.map (~~~·)) (~~~v) = ~~~(desWith ks v) := by
  rw [desWith, initialHalves_not, foldl_feistelRound_not, finalBlock_not, desWith]

/-- Settles O41: every subkey and both halves of every round are complemented. -/
theorem desComplementation : Obligations.DesComplementation := by
  intro k b
  rw [desEnc, keySchedule_not, desWith_not, desEnc]

/-! ## A pass of the datapath -/

/-- The round counter and the key-schedule halves at the end of a pass (R153, R171, R172). -/
theorem passRun_counter_and_key_halves (dir : Dir) (key v : Block) : (passRun dir key v).rnd.val = 16 ∧
    (passRun dir key v).c = keyC0 key ∧ (passRun dir key v).d = keyD0 key := by
  cases dir with
  | enc => rw [passRun_enc]; exact ⟨rfl, rfl, rfl⟩
  | dec => rw [passRun_dec]; exact ⟨rfl, rfl, rfl⟩

/-- Settles O42, from the registers at the end of a pass in each direction. -/
theorem datapathPassIsDes : Obligations.DatapathPassIsDes := fun key v =>
  ⟨passResult_passRun_enc key v, passResult_passRun_dec key v, fun dir => passRun_counter_and_key_halves dir key v⟩

/-! ## The worked examples -/

/-- Settles O45, one evaluation for each example. -/
theorem knownAnswers : Obligations.KnownAnswers := by
  refine ⟨?_, ?_, ?_, ?_⟩ <;> decide +kernel

end Sys2Proof.Machine

/-! # Triple DES (spec/41_triple_des.md)

The inner stages cancel by the inversion of DES (R169), in both directions. -/

namespace Sys2Proof.Machine

/-! ## The three stages of EDE -/

/-- The stages of the decipher undo those of the cipher from the last to the first. -/
@[simp] theorem edeDecipher_edeCipher (k1 k2 k3 b : Block) : edeDecipher k1 k2 k3 (edeCipher k1 k2 k3 b) = b := by
  rw [edeCipher, edeDecipher, desDec_desEnc, desEnc_desDec, desDec_desEnc]

/-- Equal keys in the first two stages cancel them. -/
@[simp] theorem edeCipher_same_first (k k3 b : Block) : edeCipher k k k3 b = desEnc k3 b := by
  rw [edeCipher, desDec_desEnc]

/-- Equal keys in the last two stages cancel them. -/
@[simp] theorem edeCipher_same_last (k1 k b : Block) : edeCipher k1 k k b = desEnc k1 b := by
  rw [edeCipher, desEnc_desDec]

/-! ## TDES2 and TDES3 -/

@[simp] theorem tdes2Dec_tdes2Enc (k1 k2 b : Block) : tdes2Dec k1 k2 (tdes2Enc k1 k2 b) = b :=
  edeDecipher_edeCipher k1 k2 k1 b

@[simp] theorem tdes3Dec_tdes3Enc (k1 k2 k3 b : Block) : tdes3Dec k1 k2 k3 (tdes3Enc k1 k2 k3 b) = b :=
  edeDecipher_edeCipher k1 k2 k3 b

/-- TDES2 is TDES3 with its third key equal to its first (R204, R206). -/
theorem tdes3Enc_same_outer (k1 k2 b : Block) : tdes3Enc k1 k2 k1 b = tdes2Enc k1 k2 b := rfl

/-- Settles O44: the stages cancel in pairs, by DES inversion on the keys that meet. -/
theorem tripleDesInvertsAndCollapses : Obligations.TripleDesInvertsAndCollapses := fun k1 k2 k3 b =>
  ⟨tdes2Dec_tdes2Enc k1 k2 b, tdes3Dec_tdes3Enc k1 k2 k3 b,
    edeCipher_same_first k1 k1 b, tdes3Enc_same_outer k1 k2 b,
    edeCipher_same_first k1 k3 b, edeCipher_same_last k1 k2 b⟩

end Sys2Proof.Machine

/-! # Chaining modes as functions (spec/42_chaining_modes.md R225, R230, R234, R235)

One block of a chain is said once for both modes and both directions; the claims about whole lists are inductions. -/

namespace Sys2Proof.Machine

section Chain

variable {n : Nat} (enc dec : BitVec n → BitVec n)

/-! ## One block of a chain -/

/-- The output block for the input block `x` at the chain value `ch` (R225). -/
def chainOut : Mode → Dir → BitVec n → BitVec n → BitVec n
  | .ecb, .enc, _, x => enc x
  | .ecb, .dec, _, x => dec x
  | .cbc, .enc, ch, x => enc (x ^^^ ch)
  | .cbc, .dec, ch, x => dec x ^^^ ch

/-- The chain value after the input block `x` (R225); ECB leaves it. -/
def chainNext : Mode → Dir → BitVec n → BitVec n → BitVec n
  | .ecb, _, ch, _ => ch
  | .cbc, .enc, ch, x => enc (x ^^^ ch)
  | .cbc, .dec, _, x => x

@[simp] theorem chainBlocks_nil (m : Mode) (d : Dir) (ch : BitVec n) : chainBlocks enc dec m d ch [] = [] := by
  cases m <;> cases d <;> rfl

@[simp] theorem chainBlocks_cons (m : Mode) (d : Dir) (ch x : BitVec n) (xs : List (BitVec n)) :
    chainBlocks enc dec m d ch (x :: xs) =
      chainOut enc dec m d ch x :: chainBlocks enc dec m d (chainNext enc m d ch x) xs := by
  cases m <;> cases d <;> rfl

@[simp] theorem length_chainBlocks (m : Mode) (d : Dir) (ch : BitVec n) (xs : List (BitVec n)) :
    (chainBlocks enc dec m d ch xs).length = xs.length := by
  induction xs generalizing ch with
  | nil => simp
  | cons x xs ih => simp [ih]

/-- ECB applies the cipher to each block on its own, at whatever chain value (R225). -/
theorem chainBlocks_ecb (d : Dir) (ch : BitVec n) (xs : List (BitVec n)) :
    chainBlocks enc dec .ecb d ch xs = xs.map (chainOut enc dec .ecb d ch) := by
  induction xs with
  | nil => simp
  | cons x xs ih => simp [chainNext, ih]

/-- ECB does not read the chain value (R225). -/
theorem chainBlocks_ecb_congr (d : Dir) (ch ch' : BitVec n) (xs : List (BitVec n)) :
    chainBlocks enc dec .ecb d ch xs = chainBlocks enc dec .ecb d ch' xs := by
  rw [chainBlocks_ecb, chainBlocks_ecb]
  cases d <;> rfl

variable {enc dec}

/-! ## Decipher undoes cipher -/

/-- Deciphering a ciphered block at the same chain value gives the block back (R234). -/
theorem chainOut_dec_enc (hinv : ∀ b, dec (enc b) = b) (m : Mode) (ch x : BitVec n) :
    chainOut enc dec m .dec ch (chainOut enc dec m .enc ch x) = x := by
  cases m with
  | ecb => exact hinv x
  | cbc => rw [chainOut, chainOut, hinv, BitVec.xor_assoc, BitVec.xor_self, BitVec.xor_zero]

/-- Both directions go on from the same chain value, the ciphered block in CBC (R225, R234). -/
theorem chainNext_dec_enc (m : Mode) (ch x : BitVec n) :
    chainNext enc m .dec ch (chainOut enc dec m .enc ch x) = chainNext enc m .enc ch x := by
  cases m <;> rfl

theorem chainBlocks_dec_enc (hinv : ∀ b, dec (enc b) = b) (m : Mode) (ch : BitVec n) (xs : List (BitVec n)) :
    chainBlocks enc dec m .dec ch (chainBlocks enc dec m .enc ch xs) = xs := by
  induction xs generalizing ch with
  | nil => simp
  | cons x xs ih => simp [chainOut_dec_enc hinv, chainNext_dec_enc, ih]

/-! ## Diffusion of one changed block -/

/-- In ECB exactly the changed block changes (R235). -/
theorem getElem?_chainBlocks_ecb_set_ne_iff (hinj : Function.Injective enc) (ch : BitVec n) {xs : List (BitVec n)}
    {i : Nat} {x : BitVec n} (hi : i < xs.length) (hx : xs[i]? ≠ some x) (j : Nat) :
    (chainBlocks enc dec .ecb .enc ch (xs.set i x))[j]? ≠ (chainBlocks enc dec .ecb .enc ch xs)[j]? ↔ j = i := by
  have hmap : ∀ ys, chainBlocks enc dec .ecb .enc ch ys = ys.map enc := chainBlocks_ecb enc dec .enc ch
  rw [hmap, hmap, List.getElem?_map, List.getElem?_map, (Option.map_injective hinj).ne_iff, List.getElem?_set]
  by_cases hij : i = j
  · subst hij
    simpa [hi] using hx.symm
  · simp [hij, Ne.symm hij]

/-- Different chain values make every output block of a CBC cipher run different (R235). -/
theorem getElem?_chainBlocks_cbc_enc_ne (hinj : Function.Injective enc) {ch ch' : BitVec n} (h : ch ≠ ch')
    {xs : List (BitVec n)} {j : Nat} (hj : j < xs.length) :
    (chainBlocks enc dec .cbc .enc ch xs)[j]? ≠ (chainBlocks enc dec .cbc .enc ch' xs)[j]? := by
  induction xs generalizing ch ch' j with
  | nil => simp at hj
  | cons x xs ih =>
    have hne : enc (x ^^^ ch) ≠ enc (x ^^^ ch') := hinj.ne (by simpa using h)
    cases j with
    | zero => simpa [chainOut] using hne
    | succ j =>
      have hch : chainNext enc .cbc .enc ch x ≠ chainNext enc .cbc .enc ch' x := hne
      simpa using ih hch (by simpa using hj)

/-- In CBC exactly the output blocks from the changed block on change (R235). -/
theorem getElem?_chainBlocks_cbc_enc_set_ne_iff (hinj : Function.Injective enc) (ch : BitVec n) {xs : List (BitVec n)}
    {i j : Nat} {x : BitVec n} (hi : i < xs.length) (hx : xs[i]? ≠ some x) (hj : j < xs.length) :
    (chainBlocks enc dec .cbc .enc ch (xs.set i x))[j]? ≠ (chainBlocks enc dec .cbc .enc ch xs)[j]? ↔ i ≤ j := by
  induction xs generalizing ch i j with
  | nil => simp at hi
  | cons y ys ih =>
    cases i with
    | zero =>
      have hne : enc (x ^^^ ch) ≠ enc (y ^^^ ch) := hinj.ne (by simpa [eq_comm] using hx)
      refine iff_of_true ?_ (Nat.zero_le j)
      cases j with
      | zero => simpa [chainOut] using hne
      | succ j =>
        have hch : chainNext enc .cbc .enc ch x ≠ chainNext enc .cbc .enc ch y := hne
        simpa using getElem?_chainBlocks_cbc_enc_ne hinj hch (by simpa using hj)
    | succ i =>
      cases j with
      | zero => simp
      | succ j => simpa using ih _ (by simpa using hi) (by simpa using hx) (by simpa using hj)

/-- The chain value enters the first output block of a CBC decipher run only (R225, R247). -/
theorem getElem?_succ_chainBlocks_cbc_dec (ch ch' : BitVec n) (xs : List (BitVec n)) (j : Nat) :
    (chainBlocks enc dec .cbc .dec ch xs)[j + 1]? = (chainBlocks enc dec .cbc .dec ch' xs)[j + 1]? := by
  cases xs with
  | nil => simp
  | cons x xs => simp [chainNext]

/-- A changed block of a CBC decipher run reaches its own output block and the next one (R247). -/
theorem getElem?_chainBlocks_cbc_dec_set (ch : BitVec n) (xs : List (BitVec n)) {i j : Nat} (x : BitVec n) (h : j ≠ i)
    (hnext : j ≠ i + 1) :
    (chainBlocks enc dec .cbc .dec ch (xs.set i x))[j]? = (chainBlocks enc dec .cbc .dec ch xs)[j]? := by
  induction xs generalizing ch i j with
  | nil => simp
  | cons y ys ih =>
    cases i with
    | zero =>
      obtain ⟨k, rfl⟩ : ∃ k, j = k + 2 := ⟨j - 2, by omega⟩
      simpa using getElem?_succ_chainBlocks_cbc_dec _ _ ys k
    | succ i =>
      cases j with
      | zero => simp
      | succ j => simpa using ih _ (by omega) (by omega)

end Chain

/-! ## The ciphers of a command -/

/-- `T.decipher` undoes `T.cipher` under every latched key (R169, R204, R206). -/
theorem CipherKey.dec_enc (key : CipherKey) (b : Block) : key.dec (key.enc b) = b := by
  cases key with
  | des k1 => exact desDec_desEnc k1 b
  | tdes2 k1 k2 => exact tdes2Dec_tdes2Enc k1 k2 b
  | tdes3 k1 k2 k3 => exact tdes3Dec_tdes3Enc k1 k2 k3 b

theorem CipherKey.enc_injective (key : CipherKey) : Function.Injective key.enc :=
  Function.LeftInverse.injective key.dec_enc

/-- Settles O46: the decipher run follows the chain of the cipher run, and T's operations undo each other. -/
theorem decipherInvertsCipher : Obligations.DecipherInvertsCipher := fun mode T key iv xs =>
  chainBlocks_dec_enc (key.latch T).dec_enc mode iv.value xs

/-- Settles O47: T is injective, so a difference in a block or in the chain value reaches the output. -/
theorem diffusionOfOneChangedBlock : Obligations.DiffusionOfOneChangedBlock := fun T key iv _ _ _ hi hx =>
  ⟨fun j _ => getElem?_chainBlocks_ecb_set_ne_iff (key.latch T).enc_injective iv.value hi hx j,
    fun _ hj => getElem?_chainBlocks_cbc_enc_set_ne_iff (key.latch T).enc_injective iv.value hi hx hj⟩

/-- Settles O48: CBC decipher takes from the run before a block only the block before it. -/
theorem cbcDecipherErrorSpansTwoBlocks : Obligations.CbcDecipherErrorSpansTwoBlocks := fun _ _ iv xs _ _ x h hnext =>
  getElem?_chainBlocks_cbc_dec_set iv.value xs x h hnext

/-- Settles O49: ECB maps T over the blocks, and the latch of each cipher takes the key words the rule names. -/
theorem ecbMapsTheCipherOverBlocks : Obligations.EcbMapsTheCipherOverBlocks := by
  intro key iv xs
  refine ⟨?_, ?_, ?_, ?_, ?_, ?_⟩
  all_goals exact chainBlocks_ecb _ _ _ iv.value xs

end Sys2Proof.Machine

/-! # Commands: validation, issue, block steps and completion (spec/42_chaining_modes.md R220 to R233)

A block step is one block of a chain (`chainOut`, `chainNext`), so a whole command writes `chainBlocks` of its input. -/

namespace Sys2Proof.Machine

/-! ## START -/

/-- Settles O22: a START that a check refuses is an error completion with the expected code. -/
theorem failedStartReportsTheFirstFailedCheck : Obligations.FailedStartReportsTheFirstFailedCheck := by
  intro s w hp hw hc
  obtain ⟨e, he, hs⟩ := State.start_of_failed (s := { s with resp := .accepted, ctrl := w.extractLsb' 1 31 }) hc
  refine ⟨_, exec_wr32 s _ w, ?_⟩
  rw [State.hostWrite_start_of_idle hp hw, hs, State.errorComplete, he]
  rfl

theorem getLsbD_zero_word (c : Command) : c.word.getLsbD 0 = true := by
  obtain ⟨m, T, d⟩ := c
  cases m <;> cases T <;> cases d <;> rfl

/-- The checks pass on a command's word exactly when validation gives that command (R221, R222). -/
theorem expectedCode_word_eq_zero_iff (c : Command) (keyLen inLen outLen : Word) (bufBytes : Nat) :
    expectedCode c.word keyLen inLen outLen bufBytes = 0#3 ↔
      validate c.word keyLen inLen outLen bufBytes = .ok c := by
  rw [expectedCode_eq]
  cases hv : validate c.word keyLen inLen outLen bufBytes with
  | error e => exact iff_of_false e.code_ne_zero nofun
  | ok c' =>
    obtain ⟨hd, -⟩ := (validate_eq_ok_iff ..).1 hv
    rw [decodeCtrl_word, Except.ok.injEq] at hd
    exact iff_of_true rfl (congrArg Except.ok hd.symm)

theorem State.start_of_error {s : State} {w : Word} {e : ErrCode}
    (hv : validate w s.keyLen s.inLen s.outLen s.bufBytes = .error e) : s.start w = s.errorComplete e := by
  simp only [State.start, hv]

theorem State.start_of_ok {s : State} {w : Word} {c : Command}
    (hv : validate w s.keyLen s.inLen s.outLen s.bufBytes = .ok c) : s.start w = s.issue c := by
  simp only [State.start, hv]

/-- The write of a command's word to an IDLE core issues the command when its checks pass (R223). -/
theorem exec_word_of_valid {s : State} {c : Command} (hp : s.phase = .idle)
    (hv : validate c.word s.keyLen s.inLen s.outLen s.bufBytes = .ok c) :
    exec (.wr32 0x000#14 c.word) s =
      .next ({ s with resp := .accepted, ctrl := c.word.extractLsb' 1 31 }.issue c) := by
  rw [exec_wr32, State.hostWrite_start_of_idle hp (getLsbD_zero_word c),
    State.start_of_ok (s := { s with resp := .accepted, ctrl := c.word.extractLsb' 1 31 }) hv]

theorem dir_of_word (c : Command) : (if c.word.getLsbD 1 then Dir.dec else .enc) = c.dir := by
  obtain ⟨m, T, d⟩ := c
  cases m <;> cases T <;> cases d <;> rfl

theorem mode_of_word (c : Command) : (if c.word.getLsbD 4 then Mode.cbc else .ecb) = c.mode := by
  obtain ⟨m, T, d⟩ := c
  cases m <;> cases T <;> cases d <;> rfl

/-- CH at the issue of a command, by bit 4 of its word (R101, R223). -/
theorem State.loadChain_of_word (s : State) (c : Command) :
    (if c.word.getLsbD 4 then s.iv.iv0 ++ s.iv.iv1 else s.engine.ch) = s.loadChain c.mode := by
  rw [← mode_of_word c]
  split <;> rfl

/-- Settles O24: the checks that hold make validation give the row's command, whose fields are bits of its word. -/
theorem validCommandIsIssued : Obligations.ValidCommandIsIssued := by
  rintro ⟨w, i, c⟩ s hrow ⟨hp, hlen, hmod, hkey, hle⟩
  obtain ⟨hexec, -⟩ := commandIsTheWriteOfItsWord _ hrow s
  obtain rfl : w = c.word := word_of_mem_commandTable _ hrow
  have hv := (validate_eq_ok_iff ..).2 ⟨decodeCtrl_word c, hlen, hmod, hkey, hle⟩
  refine ⟨_, hexec.trans (exec_word_of_valid hp hv), ?_⟩
  simp only [dir_of_word, mode_of_word, State.loadChain_of_word]
  obtain ⟨m, T, d⟩ := c
  cases T <;> rfl

/-! ## The block step -/

/-- Block compute in the mode of the command (R225). -/
def blockCompute (x : Block) (e : Engine) : Engine × Block :=
  match e.cmd.mode with
  | .ecb => ecbCompute x e
  | .cbc => cbcCompute x e

theorem blockCompute_cmd (x : Block) (e : Engine) : (blockCompute x e).1.cmd = e.cmd := by
  unfold blockCompute
  cases e.cmd.mode with
  | ecb => exact ecbCompute_cmd x e
  | cbc => exact cbcCompute_cmd x e

/-- Block compute gives the block that the chain gives (R225). -/
theorem blockCompute_out (x : Block) (e : Engine) :
    (blockCompute x e).2 = chainOut e.cmd.key.enc e.cmd.key.dec e.cmd.mode e.cmd.dir e.ch x := by
  unfold blockCompute ecbCompute cbcCompute
  cases e.cmd.mode <;> cases e.cmd.dir <;> simp only [runCipher_block] <;> rfl

/-- Block compute leaves in CH the value the chain goes on from (R225). -/
theorem blockCompute_ch (x : Block) (e : Engine) :
    (blockCompute x e).1.ch = chainNext e.cmd.key.enc e.cmd.mode e.cmd.dir e.ch x := by
  unfold blockCompute ecbCompute cbcCompute
  cases e.cmd.mode with
  | ecb => exact (runCipher_frame _ _ _).2.2
  | cbc => cases e.cmd.dir <;> simp only [runCipher_block] <;> rfl

/-- The core's step while blocks are left and their marks are set (R227, R228). -/
theorem State.coreStep_of_block {s : State} {x : Block} (hlt : s.engine.idx < s.engine.cmd.nblk)
    (hr : s.inBuf.readBlock (8 * s.engine.idx) = some x) :
    s.coreStep = s.writeOutBlock (blockCompute x s.engine) := by
  obtain ⟨-, hn, -⟩ | ⟨y, -, hm, hy, h⟩ | ⟨y, -, hm, hy, h⟩ | ⟨heq, -⟩ | ⟨hgt, -⟩ := s.coreStep_cases
  · simp [hr] at hn
  · cases hr.symm.trans hy
    simp only [h, blockCompute, hm]
  · cases hr.symm.trans hy
    simp only [h, blockCompute, hm]
  · omega
  · omega

/-- The core's step when no block is left (R229). -/
theorem State.coreStep_of_done {s : State} (h : s.engine.idx = s.engine.cmd.nblk) : s.coreStep = s.complete := by
  rw [State.coreStep, if_neg h.not_lt, if_pos h]

/-- No rule gives a step past the last block: the state is left as it is (R41). -/
theorem State.coreStep_of_past {s : State} (h : s.engine.cmd.nblk < s.engine.idx) : s.coreStep = s := by
  rw [State.coreStep, if_neg h.not_gt, if_neg h.ne']

/-- The step of the machine on the core's move while blocks are left (R227, R228). -/
theorem step_of_block {s : State} {x : Block} (hm : s.CoreMoves) (hlt : s.engine.idx < s.engine.cmd.nblk)
    (hr : s.inBuf.readBlock (8 * s.engine.idx) = some x) :
    ∃ ts, step s = .next ({ s with turns := ts }.writeOutBlock (blockCompute x s.engine)) := by
  obtain ⟨ts, h⟩ := step_of_coreMoves hm
  exact ⟨ts, h.trans (congrArg _ (State.coreStep_of_block (s := { s with turns := ts }) hlt hr))⟩

/-- What a block write makes of OUT_BUF: the block at `8 * idx`, and the other bytes as before (R226). -/
theorem State.writeOutBlock_spec (s : State) (r : Engine × Block) :
    (s.writeOutBlock r).outBuf.readBlock (8 * s.engine.idx) = some r.2 ∧
    ∀ a, (a < 8 * s.engine.idx ∨ 8 * s.engine.idx + 8 ≤ a) → (s.writeOutBlock r).outBuf.read a = s.outBuf.read a :=
  ⟨Memory.readBlock_writeBlock _ _ _, fun _ h => Memory.read_writeBlock_other _ _ h⟩

/-- ECB gives T of the block (R225). -/
theorem CipherKey.chainOut_ecb (key : CipherKey) (d : Dir) (ch x : Block) :
    chainOut key.enc key.dec .ecb d ch x = key.apply d x := by
  cases d <;> rfl

/-- Settles O25: the block step writes the chain's block, in ECB T of the input block, and ECB leaves CH. -/
theorem ecbStepComputesItsBlock : Obligations.EcbStepComputesItsBlock := by
  intro s x hm hmode hlt hr
  obtain ⟨ts, h⟩ := step_of_block hm hlt hr
  obtain ⟨hblock, hother⟩ := State.writeOutBlock_spec { s with turns := ts } (blockCompute x s.engine)
  rw [blockCompute_out, hmode, CipherKey.chainOut_ecb] at hblock
  have hch := blockCompute_ch x s.engine
  rw [hmode] at hch
  exact ⟨_, h, hblock, hother, rfl, blockCompute_cmd x s.engine, hch, rfl⟩

/-- Settles O26: the block step writes the chain's block and leaves the chain's next value in CH. -/
theorem cbcStepComputesItsBlock : Obligations.CbcStepComputesItsBlock := by
  intro s x hm hmode hlt hr
  obtain ⟨ts, h⟩ := step_of_block hm hlt hr
  obtain ⟨hblock, hother⟩ := State.writeOutBlock_spec { s with turns := ts } (blockCompute x s.engine)
  have hout := blockCompute_out x s.engine
  have hch := blockCompute_ch x s.engine
  rw [hmode] at hout hch
  refine ⟨_, _, h, fun hd => ?_, fun hd => ?_, hblock, hother, rfl, blockCompute_cmd x s.engine, rfl⟩
  · rw [hd] at hout hch
    exact ⟨hout, hch.trans hout.symm⟩
  · rw [hd] at hout hch
    exact ⟨hout, hch⟩

/-- Settles O28: with no block left the core's step is the completion. -/
theorem completionStep : Obligations.CompletionStep := by
  intro s hm hdone
  obtain ⟨ts, h⟩ := step_of_coreMoves hm
  rw [State.coreStep_of_done (s := { s with turns := ts }) hdone] at h
  exact ⟨_, h, rfl, rfl, rfl, Bool.true_and _, rfl⟩

/-! ## What commands leave unchanged -/

/-- What the core's own step never touches (R233). -/
theorem State.coreStep_frame (s : State) : ∃ o f p dn e g k, s.coreStep =
    { s with outBuf := o, faults := f, phase := p, done := dn, err := e, engine := g, freeCount := k } := by
  obtain ⟨-, -, h⟩ | ⟨x, -, -, -, h⟩ | ⟨x, -, -, -, h⟩ | ⟨-, h⟩ | ⟨-, h⟩ := s.coreStep_cases
  all_goals exact ⟨_, _, _, _, _, _, _, h⟩

/-- The core's own step writes no byte of OUT_BUF past the command's blocks (R226, R233). -/
theorem State.coreStep_outBuf_read (s : State) {a : Nat} (ha : 8 * s.engine.cmd.nblk ≤ a) :
    s.coreStep.outBuf.read a = s.outBuf.read a := by
  obtain ⟨-, -, h⟩ | ⟨x, hlt, -, -, h⟩ | ⟨x, hlt, -, -, h⟩ | ⟨-, h⟩ | ⟨-, h⟩ := s.coreStep_cases
  · rw [h, State.uninitBlock_outBuf]
  · rw [h, State.writeOutBlock_outBuf, Memory.read_writeBlock_other _ _ (by omega)]
  · rw [h, State.writeOutBlock_outBuf, Memory.read_writeBlock_other _ _ (by omega)]
  · rw [h, State.complete_outBuf]
  · rw [h]

/-- What no write to CTRL touches, whatever the phase: the operands and the buffers are not among the fields it may
change (R233). -/
theorem State.hostWrite_ctrl_frame (s : State) (d : Word) : ∃ c dn e p g f r, s.hostWrite 0x000#14 d =
    { s with ctrl := c, done := dn, err := e, phase := p, engine := g, faults := f, resp := r } := by
  obtain ⟨-, h⟩ | ⟨-, -, h⟩ | ⟨-, -, h⟩ := s.hostWrite_cases 0x000#14 d
  · exact ⟨_, _, _, _, _, _, _, h⟩
  · exact ⟨_, _, _, _, _, _, _, h⟩
  · obtain ⟨c, dn, e, p, g, hw⟩ := State.writeCtrl_frame { s with resp := .accepted } d
    exact ⟨c, dn, e, p, g, _, _, h.trans hw⟩

theorem instr_of_command {i : Instr} {c : Command} (h : i.command = some c) : c.instr = i := by
  cases i <;> cases h <;> rfl

/-- Settles O31: a command is a write to CTRL, and the core's steps write OUT_BUF inside the command's blocks only. -/
theorem commandsWriteNoOperand : Obligations.CommandsWriteNoOperand := by
  refine ⟨fun i c s t hi h => ?_, fun s t hs hm h => ?_⟩
  · obtain ⟨_, _, _, _, _, _, _, hw⟩ := s.hostWrite_ctrl_frame c.word
    rw [← instr_of_command hi, exec_instr, exec_wr32, hw] at h
    cases h
    exact ⟨rfl, rfl, rfl, rfl, rfl, rfl, rfl, rfl⟩
  · obtain ⟨ts, hstep⟩ := step_of_coreMoves hm
    obtain ⟨-, hn, -⟩ := hs.sequencer hm.1
    have hout := fun a ha => State.coreStep_outBuf_read { s with turns := ts } (a := a) ha
    obtain ⟨_, _, _, _, _, _, _, hw⟩ := State.coreStep_frame { s with turns := ts }
    rw [h] at hstep
    cases hstep
    refine ⟨?_, ?_, ?_, ?_, ?_, ?_, ?_, fun a ha => hout a (hn ▸ ha)⟩
    all_goals rw [hw]

/-! ## Rows of blocks in a buffer -/

theorem Memory.length_of_readBlocks {m : Memory} {a n : Nat} {xs : List Block} (h : m.readBlocks a n = some xs) :
    xs.length = n := by
  induction n generalizing a xs with
  | zero => cases h; rfl
  | succ n ih =>
    unfold Memory.readBlocks at h
    split at h
    · next hvs => cases h; rw [List.length_cons, ih hvs]
    · cases h

/-- A row of blocks has values exactly when its first block has and the rest of the row has. -/
theorem Memory.readBlocks_cons_iff {m : Memory} {a n : Nat} {x : Block} {xs : List Block} :
    m.readBlocks a (n + 1) = some (x :: xs) ↔ m.readBlock a = some x ∧ m.readBlocks (a + 8) n = some xs := by
  rw [Memory.readBlocks]
  cases m.readBlock a <;> cases m.readBlocks (a + 8) n <;> simp

theorem Memory.readBlock_writeBlocks_other (vs : List Block) (m : Memory) {a b : Nat} (h : b + 8 ≤ a) :
    (m.writeBlocks a vs).readBlock b = m.readBlock b := by
  induction vs generalizing m a with
  | nil => rfl
  | cons v vs ih => rw [Memory.writeBlocks, ih _ (by omega), Memory.readBlock_writeBlock_other _ _ (.inl h)]

/-- A row of blocks reads back as it was written (R74, R226, R230). -/
theorem Memory.readBlocks_writeBlocks (vs : List Block) (m : Memory) (a : Nat) :
    (m.writeBlocks a vs).readBlocks a vs.length = some vs := by
  induction vs generalizing m a with
  | nil => rfl
  | cons v vs ih =>
    rw [List.length_cons, Memory.readBlocks_cons_iff, Memory.writeBlocks,
      Memory.readBlock_writeBlocks_other _ _ (le_refl _), Memory.readBlock_writeBlock]
    exact ⟨rfl, ih _ _⟩

/-! ## A command from any of its blocks on -/

/-- `xs` are the input blocks the command has still to process, all with their marks (R41, R48). -/
structure State.Pending (s : State) (xs : List Block) : Prop where
  count : s.engine.idx + xs.length = s.engine.cmd.nblk
  blocks : s.inBuf.readBlocks (8 * s.engine.idx) xs.length = some xs

/-- The output blocks for the input blocks `xs`, from the chain value in CH (R225). -/
def State.chain (s : State) (xs : List Block) : List Block :=
  chainBlocks s.engine.cmd.key.enc s.engine.cmd.key.dec s.engine.cmd.mode s.engine.cmd.dir s.engine.ch xs

@[simp] theorem State.length_chain (s : State) (xs : List Block) : (s.chain xs).length = xs.length :=
  length_chainBlocks ..

/-- The state in which a command ends that has the blocks `xs` still to process: their chain written, then the
completion (R229, R230). -/
def State.finish (s : State) (xs : List Block) : State :=
  { s with outBuf := s.outBuf.writeBlocks (8 * s.engine.idx) (s.chain xs) }.complete

theorem State.finish_outBuf_readBlocks (s : State) (xs : List Block) :
    (s.finish xs).outBuf.readBlocks (8 * s.engine.idx) xs.length = some (s.chain xs) := by
  rw [← s.length_chain xs]
  exact Memory.readBlocks_writeBlocks _ _ _

theorem State.Pending.finish_outBuf_read {s : State} {xs : List Block} (h : s.Pending xs) {a : Nat}
    (ha : a < 8 * s.engine.idx ∨ 8 * s.engine.cmd.nblk ≤ a) : (s.finish xs).outBuf.read a = s.outBuf.read a := by
  have hcount := h.count
  exact Memory.read_writeBlocks_other _ _ _ (by rw [s.length_chain]; omega)

theorem State.Pending.coreStep_nil {s : State} (h : s.Pending []) : s.coreStep = s.finish [] := by
  rw [State.coreStep_of_done h.count, State.finish, State.chain, chainBlocks_nil]
  rfl

/-- A block step leaves the rest of the blocks to process, towards the same end (R227, R228). -/
theorem State.Pending.coreStep_cons {s : State} {x : Block} {xs : List Block} (h : s.Pending (x :: xs)) :
    s.coreStep.Pending xs ∧ s.coreStep.finish xs = s.finish (x :: xs) ∧ s.coreStep.phase = s.phase ∧
      s.coreStep.inputs = s.inputs ∧ s.coreStep.turns = s.turns := by
  obtain ⟨hcount, hblocks⟩ := h
  rw [List.length_cons] at hcount hblocks
  obtain ⟨hx, hxs⟩ := Memory.readBlocks_cons_iff.1 hblocks
  rw [State.coreStep_of_block (by omega) hx]
  have hcmd := blockCompute_cmd x s.engine
  refine ⟨⟨?_, hxs⟩, ?_, rfl, rfl, rfl⟩
  · simp only [State.writeOutBlock_engine, hcmd]
    omega
  · simp only [State.finish, State.chain, State.writeOutBlock_engine, State.writeOutBlock_outBuf, blockCompute_cmd,
      blockCompute_ch, blockCompute_out, chainBlocks_cons, Memory.writeBlocks, Nat.mul_succ]
    rfl

/-! ## Runs of the core -/

theorem run_succ_of_step {s t : State} (h : step s = .next t) (k : Nat) :
    Host.Core.run core (k + 1) s = Host.Core.run core k t := by
  simp only [Host.Core.run, show core.step s = .next t from h]

theorem step_of_busy_no_inputs {s : State} (hb : s.phase = .busy) (hi : s.inputs = []) :
    step s = .next s.coreStep := by
  rw [step_of_busy hb, busyCycle, hi]

/-- With nothing to come from outside, a command takes one step for each block and one to complete (R227 to R230). -/
theorem run_eq_finish {s : State} {xs : List Block} (hb : s.phase = .busy) (hi : s.inputs = []) (h : s.Pending xs) :
    Host.Core.run core (xs.length + 1) s = .next (s.finish xs) := by
  induction xs generalizing s with
  | nil => rw [run_succ_of_step (step_of_busy_no_inputs hb hi), h.coreStep_nil]; rfl
  | cons x xs ih =>
    obtain ⟨hrest, hend, hphase, hinputs, -⟩ := h.coreStep_cons
    rw [run_succ_of_step (step_of_busy_no_inputs hb hi), List.length_cons,
      ih (hphase.trans hb) (hinputs.trans hi) hrest, hend]

/-- A command issued by its checks has all its input blocks to process, from the chain value of its mode (R223). -/
theorem State.pending_issue {s : State} {c : Command} {xs : List Block}
    (h : s.inBuf.readBlocks 0 (s.inLen.toNat / 8) = some xs) : (s.issue c).Pending xs := by
  have hlen := Memory.length_of_readBlocks h
  exact ⟨(Nat.zero_add _).trans hlen, hlen ▸ h⟩

/-- The chain of an issued command is `Run` (R223, R230): CBC starts from the IV, and ECB reads no chain value. -/
theorem chainBlocks_issue (s : State) (c : Command) (xs : List Block) :
    chainBlocks (s.key.latch c.cipher).enc (s.key.latch c.cipher).dec c.mode c.dir (s.loadChain c.mode) xs =
      runBlocks c s.key s.iv xs := by
  unfold runBlocks
  cases c.mode with
  | ecb => exact chainBlocks_ecb_congr _ _ _ _ _ _
  | cbc => rfl

/-- Settles O30: a failed check is an error completion; a command issued by its checks runs to the end of its chain. -/
theorem commandRunsAsTheRunFunction : Obligations.CommandRunsAsTheRunFunction := by
  rintro ⟨w, i, c⟩ s hrow hp hi
  obtain ⟨hexec, -⟩ := commandIsTheWriteOfItsWord _ hrow s
  obtain rfl : w = c.word := word_of_mem_commandTable _ hrow
  refine ⟨fun hc => ?_, fun xs hc hxs => ?_⟩
  · obtain ⟨e, he, hs⟩ :=
      State.start_of_failed (s := { s with resp := .accepted, ctrl := c.word.extractLsb' 1 31 }) hc
    rw [exec_wr32, State.hostWrite_start_of_idle hp (getLsbD_zero_word c), hs] at hexec
    exact ⟨_, hexec, hp, he, rfl⟩
  · have hv := (expectedCode_word_eq_zero_iff ..).1 hc
    obtain ⟨-, -, hmod, -⟩ := (validate_eq_ok_iff ..).1 hv
    rw [Config.blockSize] at hmod
    let u : State := { s with resp := .accepted, ctrl := c.word.extractLsb' 1 31 }
    have hpending : (u.issue c).Pending xs := State.pending_issue hxs
    have hrun := run_eq_finish (s := u.issue c) rfl hi hpending
    have hblocks := (u.issue c).finish_outBuf_readBlocks xs
    rw [Memory.length_of_readBlocks hxs] at hrun hblocks
    refine ⟨u.issue c, (u.issue c).finish xs, hexec.trans (exec_word_of_valid hp hv), rfl, hrun,
      hblocks.trans (congrArg some (chainBlocks_issue s c xs)), fun a ha => ?_, rfl, rfl, rfl, ?_⟩
    · exact hpending.finish_outBuf_read (.inr (show 8 * (s.inLen.toNat / 8) ≤ a by omega))
    · calc
        _ = { s with phase := .idle } := rfl
        _ = s := by rw [← hp]

/-! ## A host that only reads STATUS -/

/-- A STATUS read by a BUSY core changes the port's answer only; a POLL puts itself back (R110, R352). -/
theorem takeInput_of_readsStatus {s : State} {i : Input} (hb : s.phase = .busy) (h : i.readsStatus = true) :
    ∃ is r, takeInput i s = .next { s with inputs := is, resp := r } ∧ (is = s.inputs ∨ is = .poll :: s.inputs) := by
  cases i with
  | txn rec =>
    obtain rfl : rec = readRecord 0x004#14 := by simpa [Input.readsStatus] using h
    rw [takeInput_txn (decodeTxn_readRecord _), exec_rd32, State.hostRead_status]
    exact ⟨_, _, rfl, .inl rfl⟩
  | poll => exact ⟨_, _, pollOnce_of_busy hb, .inr rfl⟩
  | cmd w => cases h
  | narrow width => cases h
  | bus write address data => cases h
  | reset => cases h

/-- With such a host, a step of a BUSY core uses up a move for a STATUS read, or is the core's own (R352). -/
theorem step_of_readsStatus {s : State} (hb : s.phase = .busy) (hr : s.inputs.all Input.readsStatus = true) :
    (∃ is ts r, ts.length < s.turns.length ∧ is.all Input.readsStatus = true ∧
      step s = .next { s with inputs := is, turns := ts, resp := r }) ∨
    (∃ ts, ts.length ≤ s.turns.length ∧ step s = .next { s with turns := ts }.coreStep) := by
  obtain ⟨hidle, -, -⟩ | ⟨i, rest, -, hidle, -⟩ | ⟨i, rest, ts, hi, ht, -, h⟩ | ⟨-, -, h⟩ |
    ⟨i, rest, ts, -, ht, -, h⟩ := step_cases s
  · simp [hb] at hidle
  · simp [hb] at hidle
  · rw [hi, List.all_cons, Bool.and_eq_true] at hr
    obtain ⟨hread, hrest⟩ := hr
    obtain ⟨is, r, htake, his⟩ := takeInput_of_readsStatus (s := s.awaiting rest ts) hb hread
    refine .inl ⟨is, ts, r, by simp [ht], ?_, h.trans htake⟩
    obtain rfl | rfl := his
    · exact hrest
    · exact hrest
  · exact .inr ⟨s.turns, le_refl _, h⟩
  · exact .inr ⟨ts, by simp [ht], h⟩

/-- Under every interleaving with STATUS reads a command ends where it ends alone, but for the answer of the port and
what is left of inputs and moves (R352). -/
theorem run_reaches_finish {s : State} {xs : List Block} (hb : s.phase = .busy)
    (hr : s.inputs.all Input.readsStatus = true) (h : s.Pending xs) :
    ∃ k is ts r, k ≤ s.turns.length + xs.length + 1 ∧
      Host.Core.run core k s = .next { s.finish xs with inputs := is, turns := ts, resp := r } := by
  induction hn : s.turns.length + xs.length using Nat.strong_induction_on generalizing s xs with
  | _ n ih =>
    obtain ⟨is, ts, r, hts, his, hstep⟩ | ⟨ts, hts, hstep⟩ := step_of_readsStatus hb hr
    · obtain ⟨k, is', ts', r', hk, hrun⟩ := ih (ts.length + xs.length) (by omega)
        (s := { s with inputs := is, turns := ts, resp := r }) hb his ⟨h.count, h.blocks⟩ rfl
      exact ⟨k + 1, is', ts', r', by omega, (run_succ_of_step hstep k).trans hrun⟩
    · have hpending : State.Pending { s with turns := ts } xs := ⟨h.count, h.blocks⟩
      cases xs with
      | nil =>
        rw [hpending.coreStep_nil] at hstep
        exact ⟨1, _, _, _, by omega, run_succ_of_step hstep 0⟩
      | cons x xs =>
        obtain ⟨hrest, hend, hphase, hinputs, hturns⟩ := hpending.coreStep_cons
        rw [List.length_cons] at hn
        obtain ⟨k, is', ts', r', hk, hrun⟩ := ih (ts.length + xs.length) (by omega) (hphase.trans hb)
          (by rw [hinputs]; exact hr) hrest (by rw [hturns])
        rw [hend] at hrun
        exact ⟨k + 1, is', ts', r', by omega, (run_succ_of_step hstep k).trans hrun⟩

/-- Settles O29: the command reaches the end of its chain, which records no fault and writes its blocks only. -/
theorem busyCommandCompletesUnderEveryInterleaving : Obligations.BusyCommandCompletesUnderEveryInterleaving := by
  intro s xs hs hb hr hxs
  obtain ⟨hidx, -, -⟩ := hs.sequencer hb
  have hlen := Memory.length_of_readBlocks hxs
  have hpending : s.Pending xs := ⟨by omega, hlen ▸ hxs⟩
  obtain ⟨k, is, ts, r, hk, hrun⟩ := run_reaches_finish hb hr hpending
  rw [← hlen]
  exact ⟨k, _, hk, hrun, rfl, rfl, rfl, rfl, s.finish_outBuf_readBlocks xs, fun a ha => hpending.finish_outBuf_read ha⟩

end Sys2Proof.Machine

/-! # The internal registers are unobservable (spec/10_state.md R41 to R44, spec/42_chaining_modes.md R229, R232)

Two runs side by side: they differ in internal registers only, and while BUSY they agree on those that the command
being run still reads. -/

namespace Sys2Proof.Machine

/-! ## States that differ in internal registers only -/

/-- The registers that a running command still reads agree: the latch, the block index and, in CBC, the chain register.
The Triple-DES stage state and the datapath are written before they are read (R43, R44). -/
structure Engine.Agrees (e e' : Engine) : Prop where
  cmd : e'.cmd = e.cmd
  idx : e'.idx = e.idx
  ch : e.cmd.mode = .cbc → e'.ch = e.ch

/-- The states differ in internal registers only, and a BUSY one in none that its command still reads. -/
inductive State.Alike (s : State) : State → Prop
  | mk (e : Engine) (h : s.phase = .busy → s.engine.Agrees e) : State.Alike s { s with engine := e }

/-- Outcomes with alike next states, or the same stop. -/
inductive OutcomesAlike : Host.Outcome State Fault Refusal → Host.Outcome State Fault Refusal → Prop
  | next {s t : State} (h : s.Alike t) : OutcomesAlike (.next s) (.next t)
  | fault (f : Fault) : OutcomesAlike (.fault f) (.fault f)
  | refused (r : Refusal) : OutcomesAlike (.refused r) (.refused r)

theorem State.Alike.refl (s : State) : s.Alike s := ⟨s.engine, fun _ => ⟨rfl, rfl, fun _ => rfl⟩⟩

theorem State.Alike.phase_eq {s t : State} (h : s.Alike t) : t.phase = s.phase := by cases h; rfl

theorem State.Alike.forgetEngine_eq {s t : State} (h : s.Alike t) : t.forgetEngine = s.forgetEngine := by
  cases h
  rfl

theorem OutcomesAlike.forgetOutcome_eq {x y : Host.Outcome State Fault Refusal} (h : OutcomesAlike x y) :
    forgetOutcome y = forgetOutcome x := by
  cases h with
  | next h => exact congrArg Host.Outcome.next h.forgetEngine_eq
  | fault f => rfl
  | refused r => rfl

/-! ## Host accesses -/

theorem State.readSlot_with_engine (s : State) (e : Engine) (slot : Slot) :
    { s with engine := e }.readSlot slot = s.readSlot slot := by
  cases slot <;> rfl

/-- A read neither reads nor writes an internal register (R260, R262). -/
theorem State.hostRead_with_engine (s : State) (e : Engine) (o : Offset) :
    { s with engine := e }.hostRead o = { s.hostRead o with engine := e } := by
  have hvalue : { s with engine := e }.readSlot (slotAt { s with engine := e }.bufBytes o) =
      s.readSlot (slotAt s.bufBytes o) := s.readSlot_with_engine e _
  simp only [State.hostRead, hvalue]
  split
  · rfl
  · split
    · rfl
    · cases s.readSlot (slotAt s.bufBytes o) <;> rfl

theorem State.Alike.hostRead {s t : State} (h : s.Alike t) (o : Offset) : (s.hostRead o).Alike (t.hostRead o) := by
  obtain ⟨e, he⟩ := h
  rw [s.hostRead_with_engine e]
  obtain ⟨f, r, hs⟩ := s.hostRead_frame o
  rw [hs]
  exact ⟨e, he⟩

/-- A START validates alike, and a command it issues finds the same latch, index and CBC chain value (R222, R223). -/
theorem State.start_alike {s : State} (hp : s.phase = .idle) (e : Engine) (w : Word) :
    (s.start w).Alike ({ s with engine := e }.start w) := by
  have hidle : s.phase = .busy → s.engine.Agrees e := fun hb => by simp [hp] at hb
  cases hv : validate w s.keyLen s.inLen s.outLen s.bufBytes with
  | error x =>
    rw [State.start_of_error hv, State.start_of_error (s := { s with engine := e }) hv]
    exact ⟨e, hidle⟩
  | ok c =>
    have hload : c.mode = .cbc → State.loadChain { s with engine := e } c.mode = s.loadChain c.mode := fun hm => by
      rw [hm]; rfl
    rw [State.start_of_ok hv, State.start_of_ok (s := { s with engine := e }) hv]
    exact ⟨_, fun _ => ⟨rfl, rfl, hload⟩⟩

/-- A write to a slot of an IDLE core touches the internal registers only where it issues a command (R263). -/
theorem State.writeSlot_alike {s : State} (hp : s.phase = .idle) (e : Engine) (d : Word) (slot : Slot) :
    (s.writeSlot d slot).Alike ({ s with engine := e }.writeSlot d slot) := by
  have hidle : s.phase = .busy → s.engine.Agrees e := fun hb => by simp [hp] at hb
  cases slot with
  | ctrl =>
    simp only [State.writeSlot]
    cases hd : d.getLsbD 0 with
    | false =>
      rw [State.writeCtrl_of_no_start _ hd, State.writeCtrl_of_no_start _ hd]
      exact ⟨e, hidle⟩
    | true =>
      rw [State.writeCtrl_of_start _ hd, State.writeCtrl_of_start _ hd]
      exact State.start_alike (s := { s with ctrl := d.extractLsb' 1 31 }) hp e d
  | status =>
    simp only [State.writeSlot, State.writeStatus]
    split
    · exact ⟨e, hidle⟩
    · exact ⟨e, hidle⟩
  | _ => exact ⟨e, hidle⟩

theorem State.Alike.hostWrite {s t : State} (h : s.Alike t) (o : Offset) (d : Word) :
    (s.hostWrite o d).Alike (t.hostWrite o d) := by
  obtain ⟨e, he⟩ := h
  unfold State.hostWrite
  split
  · exact ⟨e, he⟩
  · split
    · exact ⟨e, he⟩
    · next hb =>
      have hp : s.phase = .idle := by cases hs : s.phase <;> simp_all
      exact State.writeSlot_alike (s := { s with resp := .accepted }) hp e d _

/-- An instruction is one host write or one host read, the same in every state (R103, R260, R261). -/
theorem exec_eq_access (i : Instr) :
    (∃ o d, ∀ s, exec i s = .next (s.hostWrite o d)) ∨ ∃ o, ∀ s, exec i s = .next (s.hostRead o) := by
  cases hf : i.format with
  | ctrl =>
    obtain ⟨c, rfl⟩ := (format_eq_ctrl_iff i).1 hf
    exact .inl ⟨_, _, exec_instr c⟩
  | hosttxn =>
    obtain ⟨o, rfl⟩ | ⟨o, d, rfl⟩ := (format_eq_hosttxn_iff i).1 hf
    · exact .inr ⟨o, fun s => exec_rd32 s o⟩
    · exact .inl ⟨o, d, fun s => exec_wr32 s o d⟩

theorem exec_alike {s t : State} (h : s.Alike t) (i : Instr) : OutcomesAlike (exec i s) (exec i t) := by
  obtain ⟨o, d, hw⟩ | ⟨o, hr⟩ := exec_eq_access i
  · rw [hw, hw]
    exact .next (h.hostWrite o d)
  · rw [hr, hr]
    exact .next (h.hostRead o)

/-! ## Inputs -/

theorem pollOnce_alike {s t : State} (h : s.Alike t) : OutcomesAlike (pollOnce s) (pollOnce t) := by
  cases hp : s.phase with
  | idle =>
    rw [pollOnce_of_idle hp, pollOnce_of_idle (h.phase_eq.trans hp)]
    obtain ⟨e, he⟩ := h
    exact .next ⟨e, he⟩
  | busy =>
    rw [pollOnce_of_busy hp, pollOnce_of_busy (h.phase_eq.trans hp)]
    obtain ⟨e, he⟩ := h
    exact .next ⟨e, he⟩

theorem takeInput_alike {s t : State} (h : s.Alike t) (i : Input) :
    OutcomesAlike (takeInput i s) (takeInput i t) := by
  cases i with
  | txn r =>
    cases hd : decodeTxn r with
    | ok i =>
      rw [takeInput_txn hd, takeInput_txn hd]
      exact exec_alike h i
    | error x =>
      rw [takeInput_txn_error hd, takeInput_txn_error hd]
      exact .refused _
  | cmd w => exact exec_alike h _
  | poll => exact pollOnce_alike h
  | narrow width =>
    obtain ⟨e, he⟩ := h
    exact .next ⟨e, he⟩
  | bus write address data =>
    cases hw : windowOffset address with
    | some o =>
      rw [takeInput_bus_inside hw, takeInput_bus_inside hw]
      exact exec_alike h _
    | none =>
      rw [takeInput_bus_outside hw, takeInput_bus_outside hw]
      obtain ⟨e, he⟩ := h
      exact .next ⟨e, he⟩
  | reset =>
    obtain ⟨e, he⟩ := h
    exact .next (State.Alike.refl _)

/-! ## The core's step -/

/-- Block compute reads no register but those that agree, and keeps them in agreement (R225). -/
theorem Engine.Agrees.blockCompute {e e' : Engine} (h : e.Agrees e') (x : Block) :
    (blockCompute x e').2 = (blockCompute x e).2 ∧
      (e.cmd.mode = .cbc → (blockCompute x e').1.ch = (blockCompute x e).1.ch) := by
  rw [blockCompute_out, blockCompute_out, blockCompute_ch, blockCompute_ch, h.cmd]
  cases hm : e.cmd.mode with
  | ecb =>
    rw [CipherKey.chainOut_ecb, CipherKey.chainOut_ecb]
    exact ⟨rfl, nofun⟩
  | cbc =>
    rw [h.ch hm]
    exact ⟨rfl, fun _ => rfl⟩

/-- A block write of two computations that agree on the block. -/
theorem State.writeOutBlock_alike {s : State} {e : Engine} (he : s.engine.Agrees e) (x : Block) :
    (s.writeOutBlock (blockCompute x s.engine)).Alike ({ s with engine := e }.writeOutBlock (blockCompute x e)) := by
  obtain ⟨hout, hch⟩ := he.blockCompute x
  have hwrite : { s with engine := e }.writeOutBlock (blockCompute x e) =
      { s.writeOutBlock (blockCompute x s.engine) with
        engine := { (blockCompute x e).1 with idx := s.engine.idx + 1 } } := by
    simp only [State.writeOutBlock, hout, he.idx]
  have hcmd : (blockCompute x e).1.cmd = (blockCompute x s.engine).1.cmd := by
    rw [blockCompute_cmd, blockCompute_cmd, he.cmd]
  rw [hwrite]
  refine ⟨_, fun _ => ⟨hcmd, rfl, fun hm => hch ?_⟩⟩
  rwa [State.writeOutBlock_engine, blockCompute_cmd] at hm

theorem State.Alike.coreStep {s t : State} (h : s.Alike t) (hb : s.phase = .busy) : s.coreStep.Alike t.coreStep := by
  obtain ⟨e, he⟩ := h
  obtain ⟨hcmd, hidx, -⟩ := he hb
  rcases lt_trichotomy s.engine.idx s.engine.cmd.nblk with hlt | heq | hgt
  · have hlt' : e.idx < e.cmd.nblk := by rwa [hcmd, hidx]
    cases hr : s.inBuf.readBlock (8 * s.engine.idx) with
    | none =>
      rw [State.coreStep_of_uninit hlt hr,
        State.coreStep_of_uninit (s := { s with engine := e }) hlt' (by simp only [hidx, hr])]
      exact ⟨e, he⟩
    | some x =>
      rw [State.coreStep_of_block hlt hr,
        State.coreStep_of_block (s := { s with engine := e }) (x := x) hlt' (by simp only [hidx, hr])]
      exact State.writeOutBlock_alike (he hb) x
  · have heq' : e.idx = e.cmd.nblk := by rwa [hcmd, hidx]
    rw [State.coreStep_of_done heq, State.coreStep_of_done (s := { s with engine := e }) heq']
    exact State.Alike.refl _
  · have hgt' : e.cmd.nblk < e.idx := by rwa [hcmd, hidx]
    rw [State.coreStep_of_past hgt, State.coreStep_of_past (s := { s with engine := e }) hgt']
    exact ⟨e, he⟩

/-! ## Steps and runs -/

theorem hostMove_alike {s t : State} (h : s.Alike t) : OutcomesAlike (hostMove s) (hostMove t) := by
  obtain ⟨e, he⟩ := h
  simp only [hostMove]
  split
  · exact .next ⟨e, he⟩
  · next i rest _ => exact takeInput_alike (s := { s with inputs := rest }) ⟨e, he⟩ i

theorem busyCycle_alike {s t : State} (h : s.Alike t) (hb : s.phase = .busy) :
    OutcomesAlike (busyCycle s) (busyCycle t) := by
  obtain ⟨e, he⟩ := h
  have hstep : ∀ ts, State.Alike { s with turns := ts } { s with turns := ts, engine := e } := fun _ => ⟨e, he⟩
  simp only [busyCycle]
  split
  · exact .next ((hstep s.turns).coreStep hb)
  · exact .next ((hstep s.turns).coreStep hb)
  · next rest _ _ => exact .next ((hstep rest).coreStep hb)
  · next rest _ _ => exact hostMove_alike (hstep rest)

theorem step_alike {s t : State} (h : s.Alike t) : OutcomesAlike (step s) (step t) := by
  cases hp : s.phase with
  | idle =>
    rw [step_of_idle hp, step_of_idle (h.phase_eq.trans hp)]
    exact hostMove_alike h
  | busy =>
    rw [step_of_busy hp, step_of_busy (h.phase_eq.trans hp)]
    exact busyCycle_alike h hp

theorem run_alike {s t : State} (h : s.Alike t) (k : Nat) :
    OutcomesAlike (Host.Core.run core k s) (Host.Core.run core k t) := by
  induction k generalizing s t with
  | zero => exact .next h
  | succ k ih =>
    have hstep := step_alike h
    generalize hx : step s = x, hy : step t = y at hstep
    cases hstep with
    | next h =>
      rw [run_succ_of_step hx, run_succ_of_step hy]
      exact ih h
    | fault f =>
      simp only [Host.Core.run, show core.step s = .fault f from hx, show core.step t = .fault f from hy]
      exact .fault f
    | refused r =>
      simp only [Host.Core.run, show core.step s = .refused r from hx, show core.step t = .refused r from hy]
      exact .refused r

/-- Settles O37: an IDLE core's command reads none of the registers it finds, so the two runs stay alike. -/
theorem internalRegistersAreUnobservable : Obligations.InternalRegistersAreUnobservable := by
  intro s e k hp
  have h : s.Alike { s with engine := e } := ⟨e, fun hb => by simp [hp] at hb⟩
  exact (run_alike h k).forgetOutcome_eq

end Sys2Proof.Machine

/-! # The values RD32 returns and the clears of DONE and ERR (spec/43_host_interface.md R260 to R265) -/

namespace Sys2Proof.Machine

/-! ## Reads by slot -/

/-- An aligned read that the phase allows, when the slot of its offset is known and has a value (R260, R262). -/
theorem exec_rd32_of_slot {s : State} {o : Offset} {slot : Slot} {v : Word} (ha : offsetAligned o = true)
    (hp : s.phase = .busy → o = 0x004#14) (hs : slotAt s.bufBytes o = slot) (hv : s.readSlot slot = some v) :
    exec (.rd32 o) s = .next { s with resp := .data v } := by
  rw [exec_rd32]
  obtain ⟨hna, -⟩ | ⟨-, hb, hne, -⟩ | ⟨-, -, v', hv', h⟩ | ⟨-, -, hnone, -⟩ := s.hostRead_cases o
  · simp [ha] at hna
  · exact absurd (hp hb) hne
  · rw [hs, hv] at hv'
    cases hv'
    rw [h]
  · simp [hs, hv] at hnone

/-- KEYw is at offset 0x020 + 4w (R33, R71). -/
theorem slotAt_key {o : Offset} (bufBytes : Nat) (w : Fin 6) (ho : o.toNat = 0x020 + 4 * w.val) :
    slotAt bufBytes o = .key w := by
  obtain rfl : o = BitVec.ofNat 14 (0x020 + 4 * w.val) := BitVec.eq_of_toNat_eq (by simp; omega)
  fin_cases w <;> rfl

/-- IVw is at offset 0x040 + 4w (R33, R71). -/
theorem slotAt_iv {o : Offset} (bufBytes : Nat) (w : Fin 2) (ho : o.toNat = 0x040 + 4 * w.val) :
    slotAt bufBytes o = .iv w := by
  obtain rfl : o = BitVec.ofNat 14 (0x040 + 4 * w.val) := BitVec.eq_of_toNat_eq (by simp; omega)
  fin_cases w <;> rfl

/-- The statements' list of KEY words holds the words of the key store (R38). -/
theorem getD_keyWords (s : State) (w : Fin 6) : (keyWords s).getD w.val 0#32 = s.key.get w := by
  fin_cases w <;> rfl

theorem IvStore.getD_words (iv : IvStore) (w : Fin 2) : [iv.iv0, iv.iv1].getD w.val 0#32 = iv.get w := by
  fin_cases w <;> rfl

/-- Four marked bytes make a word, the first byte most significant (R73). -/
theorem Memory.readWord_of_bytes {m : Memory} {a : Nat} {b0 b1 b2 b3 : Byte} (h0 : m.read a = some b0)
    (h1 : m.read (a + 1) = some b1) (h2 : m.read (a + 2) = some b2) (h3 : m.read (a + 3) = some b3) :
    m.readWord a = some (b0 ++ b1 ++ b2 ++ b3) := by
  simp only [Memory.readWord, h0, h1, h2, h3, wordOfBytes]

/-- IRQ_EN reads as IE in bit 0 (R36, R262). -/
theorem State.readSlot_irqEn (s : State) : s.readSlot .irqEn = some (if s.ie then 1#32 else 0#32) := by
  cases h : s.ie <;> simp [State.readSlot, h]

/-- Settles O10: each offset selects its slot, and the slot's value is that of its row. -/
theorem readReturnsTheTablesValue : Obligations.ReadReturnsTheTablesValue := by
  intro s o ha hp
  have read : ∀ {slot v}, slotAt s.bufBytes o = slot → s.readSlot slot = some v →
      exec (.rd32 o) s = .next { s with resp := .data v } := exec_rd32_of_slot ha hp
  refine ⟨?ctrl, ?status, ?irqEn, ?keyLen, ?inLen, ?outLen, ?key, ?iv, ?inBuf, ?outBuf, ?reserved⟩
  case status =>
    rintro rfl
    exact read rfl (congrArg some s.statusWord_eq_statusValue)
  case irqEn =>
    rintro rfl
    exact read rfl s.readSlot_irqEn
  case key =>
    intro w hw ho
    rw [getD_keyWords s ⟨w, by omega⟩]
    exact read (slotAt_key _ ⟨w, by omega⟩ ho) rfl
  case iv =>
    intro w hw ho
    rw [s.iv.getD_words ⟨w, by omega⟩]
    exact read (slotAt_iv _ ⟨w, by omega⟩ ho) rfl
  case inBuf =>
    exact fun k b0 b1 b2 b3 hk ho h0 h1 h2 h3 =>
      read (slotAt_inBuf s o _ hk ho) (Memory.readWord_of_bytes h0 h1 h2 h3)
  case outBuf =>
    exact fun k b0 b1 b2 b3 hk ho h0 h1 h2 h3 =>
      read (slotAt_outBuf s o _ hk ho) (Memory.readWord_of_bytes h0 h1 h2 h3)
  case reserved =>
    have hB := s.bufBytes_legal
    exact fun hr => read (slotAt_reserved s o (by omega)) rfl
  all_goals
    rintro rfl
    exact read rfl rfl

/-! ## ACK -/

theorem State.hostWrite_status_of_idle {s : State} (hp : s.phase = .idle) (d : Word) :
    s.hostWrite 0x004#14 d = { s with resp := .accepted }.writeStatus d :=
  State.hostWrite_of_idle rfl hp d

theorem State.writeStatus_of_ack (s : State) {d : Word} (h : d.getLsbD 1 = true) :
    s.writeStatus d = { s with done := false, err := 0#3 } :=
  if_pos h

theorem State.writeStatus_of_no_ack (s : State) {d : Word} (h : d.getLsbD 1 = false) : s.writeStatus d = s :=
  if_neg (ne_true_of_eq_false h)

/-! ## What keeps DONE and ERR -/

/-- A write that is no ACK and no START keeps DONE and ERR (R263, R265). -/
theorem State.hostWrite_keeps_flags {o : Offset} {d : Word} (h : clearsStatus (.wr32 o d) = false) (s : State) :
    (s.hostWrite o d).done = s.done ∧ (s.hostWrite o d).err = s.err := by
  obtain ⟨-, hw⟩ | ⟨-, -, hw⟩ | ⟨-, hp, hw⟩ := s.hostWrite_cases o d
  · rw [hw]; exact ⟨rfl, rfl⟩
  · rw [hw]; exact ⟨rfl, rfl⟩
  · by_cases hctrl : o = 0x000#14
    · subst hctrl
      rw [State.hostWrite_ctrl_of_idle hp, State.writeCtrl_of_no_start _ (by simpa [clearsStatus] using h)]
      exact ⟨rfl, rfl⟩
    by_cases hstatus : o = 0x004#14
    · subst hstatus
      rw [State.hostWrite_status_of_idle hp, State.writeStatus_of_no_ack _ (by simpa [clearsStatus] using h)]
      exact ⟨rfl, rfl⟩
    rw [hw]
    exact State.writeSlot_flags _ d (slotAt_ne s rfl hctrl) (slotAt_ne s rfl hstatus)

theorem State.hostRead_keeps_flags (s : State) (o : Offset) :
    (s.hostRead o).done = s.done ∧ (s.hostRead o).err = s.err := by
  obtain ⟨f, r, h⟩ := s.hostRead_frame o
  rw [h]
  exact ⟨rfl, rfl⟩

/-- An instruction that is no ACK, no START and no command keeps DONE and ERR (R265). -/
theorem exec_keeps_flags {i : Instr} {s t : State} (hi : clearsStatus i = false) (h : exec i s = .next t) :
    t.done = s.done ∧ t.err = s.err := by
  cases i with
  | rd32 o => cases h; exact s.hostRead_keeps_flags o
  | wr32 o d => cases h; exact State.hostWrite_keeps_flags hi s
  | _ => cases hi

/-- An input that is no reset and performs no ACK and no START keeps DONE and ERR (R265). -/
theorem takeInput_keeps_flags {input : Input} {s t : State} (hreset : input ≠ .reset)
    (hi : ∀ i, input.instr = some i → clearsStatus i = false) (h : takeInput input s = .next t) :
    t.done = s.done ∧ t.err = s.err := by
  cases input with
  | txn r =>
    cases hd : decodeTxn r with
    | ok i =>
      rw [takeInput_txn hd] at h
      exact exec_keeps_flags (hi i (by rw [Input.instr, hd]; rfl)) h
    | error e =>
      rw [takeInput_txn_error hd] at h
      cases h
  | cmd w => exact exec_keeps_flags (hi _ rfl) h
  | poll =>
    obtain h' | h' := pollOnce_cases s
    all_goals
      cases h'.symm.trans h
      exact s.hostRead_keeps_flags _
  | narrow width => cases h; exact ⟨rfl, rfl⟩
  | bus write address data =>
    cases hw : windowOffset address with
    | some o =>
      rw [takeInput_bus_inside hw] at h
      exact exec_keeps_flags (hi _ (by rw [Input.instr, hw]; rfl)) h
    | none =>
      rw [takeInput_bus_outside hw] at h
      cases h
      exact ⟨rfl, rfl⟩
  | reset => exact absurd rfl hreset

/-- A core with a flag set is IDLE (R35). -/
theorem State.Inv.idle_of_flag {s : State} (h : s.Inv) (hf : s.done = true ∨ s.err ≠ 0#3) : s.phase = .idle := by
  cases hp : s.phase with
  | idle => rfl
  | busy =>
    obtain ⟨hdone, herr⟩ := h.busyClear hp
    simp [hdone, herr] at hf

/-- A step of an IDLE core that changes DONE or ERR takes a reset, an ACK, a START or a command (R265). -/
theorem exists_clearing_input_of_step {s t : State} (hp : s.phase = .idle) (h : step s = .next t)
    (hflags : ¬ (t.done = s.done ∧ t.err = s.err)) : ∃ input rest, s.inputs = input :: rest ∧
      (input = .reset ∨ ∃ i, input.instr = some i ∧ clearsStatus i = true) := by
  rw [step_of_idle hp] at h
  obtain ⟨-, h'⟩ | ⟨input, rest, hi, h'⟩ := hostMove_cases s
  · cases h'.symm.trans h
    exact absurd ⟨rfl, rfl⟩ hflags
  · refine ⟨input, rest, hi, ?_⟩
    by_contra hother
    rw [not_or] at hother
    obtain ⟨hreset, hno⟩ := hother
    have hkeeps : ∀ i, input.instr = some i → clearsStatus i = false := fun i hinstr =>
      Bool.eq_false_iff.2 fun hc => hno ⟨i, hinstr, hc⟩
    exact hflags (takeInput_keeps_flags (s := { s with inputs := rest }) hreset hkeeps (h'.symm.trans h))

/-- Settles O15: an ACK writes DONE and ERR alone; a flag is cleared in an IDLE core only, by the input it takes, and
every input but a reset, an ACK and a START keeps both flags. -/
theorem ackIsTheOnlyClearBesideStartAndReset : Obligations.AckIsTheOnlyClearBesideStartAndReset := by
  refine ⟨fun s d hp => ?_, fun s t d hp hd h => ?_, fun s t hs h hclear => ?_⟩
  · refine ⟨_, exec_wr32 s _ d, ?_⟩
    rw [State.hostWrite_status_of_idle hp]
    cases hd : d.getLsbD 1 with
    | true => rw [State.writeStatus_of_ack _ hd]; rfl
    | false => rw [State.writeStatus_of_no_ack _ hd]; rfl
  · rw [exec_wr32, State.hostWrite_status_of_idle hp, State.writeStatus_of_ack _ hd] at h
    cases h
    refine ⟨rfl, fun hs hdone => ?_⟩
    have herr : s.err = 0#3 := by
      by_contra hne
      simp [hs.errDone hne] at hdone
    rw [← hdone, ← herr]
  · refine exists_clearing_input_of_step (hs.idle_of_flag (hclear.imp And.left And.left)) h ?_
    rintro ⟨hdone, herr⟩
    rw [hdone, herr] at hclear
    obtain ⟨ht, hf⟩ | ⟨hne, he⟩ := hclear
    · simp [ht] at hf
    · exact hne he

end Sys2Proof.Machine

/-! # The causes of recorded faults (spec/60_exceptions.md R320, R321) -/

namespace Sys2Proof.Machine

@[simp] theorem FaultSet.has_empty (f : Fault) : FaultSet.empty.has f = false := by cases f <;> rfl

/-! ## The causes -/

/-- Why an instruction records a fault reason (R260, R261). -/
inductive AccessCause (s : State) : Instr → Fault → Prop
  | unaligned {i : Instr} (hwf : i.wf = false) : AccessCause s i .hostBusError
  | busy {i : Instr} (hwf : i.wf = true) (hb : s.phase = .busy) (hi : i ≠ .rd32 0x004#14) : AccessCause s i .hostHazard
  | unmarked {o : Offset} (ha : offsetAligned o = true) (hp : s.phase = .idle)
      (hv : s.readSlot (slotAt s.bufBytes o) = none) : AccessCause s (.rd32 o) .uninitRead

/-- Why an input records a fault reason: by its width alone (R72), or by the instruction it performs. -/
inductive InputCause (s : State) : Input → Fault → Prop
  | narrow (width : OtherWidth) : InputCause s (.narrow width) .hostBusError
  | access {input : Input} {i : Instr} {f : Fault} (hi : input.instr = some i) (hc : AccessCause s i f) :
      InputCause s input f

/-- Why a step records a fault reason: the host's move takes an input that does, or the core's move meets an input block
without a value (R224). -/
inductive StepCause (s : State) : Fault → Prop
  | host {input : Input} {rest : List Input} {f : Fault} (hi : s.inputs = input :: rest)
      (hm : s.phase = .busy → s.turns.head? = some .host) (hc : InputCause s input f) : StepCause s f
  | core (hm : s.CoreMoves) (hlt : s.engine.idx < s.engine.cmd.nblk)
      (hr : s.inBuf.readBlock (8 * s.engine.idx) = none) : StepCause s .uninitRead

/-- A cause does not depend on the inputs and moves still to come. -/
theorem InputCause.of_awaiting {s : State} {is : List Input} {ts : List Agent} {input : Input} {f : Fault}
    (h : InputCause (s.awaiting is ts) input f) : InputCause s input f := by
  cases h with
  | narrow width => exact .narrow width
  | access hi hc =>
    refine .access hi ?_
    cases hc with
    | unaligned hwf => exact .unaligned hwf
    | busy hwf hb hi => exact .busy hwf hb hi
    | unmarked ha hp hv => exact .unmarked ha hp hv

/-! ## Every newly recorded fault has a cause -/

/-- What is recorded after a reason was added was there before, or is that reason: a property of it is one of every new
fault. -/
theorem FaultSet.newFault_of_record {fs : FaultSet} {x f : Fault} {p : Fault → Prop} (h : (fs.record x).has f = true)
    (hx : p x) : fs.has f = true ∨ p f := by
  rw [FaultSet.has_record, Bool.or_eq_true, decide_eq_true_eq] at h
  refine h.symm.imp_right ?_
  rintro rfl
  exact hx

theorem State.hostRead_newFault {s : State} {o : Offset} {f : Fault} (h : (s.hostRead o).faults.has f = true) :
    s.faults.has f = true ∨ AccessCause s (.rd32 o) f := by
  obtain ⟨ha, h'⟩ | ⟨ha, hb, ho, h'⟩ | ⟨-, -, v, -, h'⟩ | ⟨ha, hp, hv, h'⟩ := s.hostRead_cases o
  all_goals rw [h'] at h
  · exact FaultSet.newFault_of_record h (.unaligned ha)
  · exact FaultSet.newFault_of_record h (.busy ha hb (by simpa using ho))
  · exact .inl h
  · refine FaultSet.newFault_of_record h ?_
    cases hphase : s.phase with
    | idle => exact .unmarked ha hphase hv
    | busy => rw [hp hphase] at hv; cases hv

/-- An instruction performed as a host write records what that write meets: the alignment or the busy check (R261). -/
theorem State.hostWrite_newFault {s : State} {o : Offset} {d : Word} {f : Fault} {i : Instr}
    (hwf : i.wf = offsetAligned o) (hi : i ≠ .rd32 0x004#14) (h : (s.hostWrite o d).faults.has f = true) :
    s.faults.has f = true ∨ AccessCause s i f := by
  obtain ⟨ha, h'⟩ | ⟨ha, hb, h'⟩ | ⟨-, -, h'⟩ := s.hostWrite_cases o d
  all_goals rw [h'] at h
  · exact FaultSet.newFault_of_record h (.unaligned (hwf.trans ha))
  · exact FaultSet.newFault_of_record h (.busy (hwf.trans ha) hb hi)
  · obtain ⟨-, -, -, -, hf⟩ := State.writeSlot_frame { s with resp := .accepted } d (slotAt s.bufBytes o)
    rw [hf] at h
    exact .inl h

theorem exec_newFault {s t : State} {i : Instr} {f : Fault} (h : exec i s = .next t) (hf : t.faults.has f = true) :
    s.faults.has f = true ∨ AccessCause s i f := by
  cases i with
  | rd32 o => cases h; exact State.hostRead_newFault hf
  | _ => cases h; exact State.hostWrite_newFault rfl nofun hf

theorem takeInput_newFault {s t : State} {input : Input} {f : Fault} (h : takeInput input s = .next t)
    (hf : t.faults.has f = true) : s.faults.has f = true ∨ InputCause s input f := by
  cases input with
  | txn r =>
    cases hd : decodeTxn r with
    | ok i =>
      rw [takeInput_txn hd] at h
      exact (exec_newFault h hf).imp_right (.access (by rw [Input.instr, hd]; rfl))
    | error e =>
      rw [takeInput_txn_error hd] at h
      cases h
  | cmd w => exact (exec_newFault h hf).imp_right (.access rfl)
  | poll =>
    obtain h' | h' := pollOnce_cases s
    all_goals
      cases h'.symm.trans h
      exact (State.hostRead_newFault hf).imp_right (.access rfl)
  | narrow width =>
    cases h
    exact FaultSet.newFault_of_record hf (.narrow width)
  | bus write address data =>
    cases hw : windowOffset address with
    | some o =>
      rw [takeInput_bus_inside hw] at h
      exact (exec_newFault h hf).imp_right (.access (by rw [Input.instr, hw]; rfl))
    | none =>
      rw [takeInput_bus_outside hw] at h
      cases h
      exact .inl hf
  | reset => cases h; simp at hf

/-- The core's own step, with any moves left, records UninitRead only, where it meets a block without a value (R224). -/
theorem State.coreStep_newFault {s : State} {ts : List Agent} {f : Fault} (hm : s.CoreMoves)
    (h : { s with turns := ts }.coreStep.faults.has f = true) : s.faults.has f = true ∨ StepCause s f := by
  obtain ⟨hlt, hr, h'⟩ | ⟨x, -, -, -, h'⟩ | ⟨x, -, -, -, h'⟩ | ⟨-, h'⟩ | ⟨-, h'⟩ :=
    { s with turns := ts }.coreStep_cases
  all_goals rw [h'] at h
  · exact FaultSet.newFault_of_record h (.core hm hlt hr)
  all_goals exact .inl h

theorem step_newFault {s t : State} {f : Fault} (h : step s = .next t) (hf : t.faults.has f = true) :
    s.faults.has f = true ∨ StepCause s f := by
  obtain ⟨-, -, h'⟩ | ⟨input, rest, hi, hp, h'⟩ | ⟨input, rest, ts, hi, ht, -, h'⟩ | ⟨hb, hm, h'⟩ |
    ⟨input, rest, ts, -, ht, hb, h'⟩ := step_cases s
  all_goals rw [h'] at h
  · cases h; exact .inl hf
  · exact (takeInput_newFault h hf).imp_right fun hc => .host hi (by simp [hp]) (hc.of_awaiting (ts := s.turns))
  · exact (takeInput_newFault h hf).imp_right fun hc => .host hi (by simp [ht]) hc.of_awaiting
  · cases h
    exact State.coreStep_newFault (ts := s.turns) ⟨hb, hm.imp_right fun ht => by simp [ht]⟩ hf
  · cases h
    exact State.coreStep_newFault ⟨hb, .inr (by simp [ht])⟩ hf

/-! ## The causes in the terms of the accesses -/

/-- An instruction that is not well formed is an unaligned read or write (R72). -/
theorem unaligned_of_not_wf {i : Instr} (h : i.wf = false) :
    ∃ o : Offset, o.toNat % 4 ≠ 0 ∧ (i = .rd32 o ∨ ∃ d, i = .wr32 o d) := by
  have hmod : ∀ o : Offset, offsetAligned o = false → o.toNat % 4 ≠ 0 := fun o ho hm => by
    rw [(offsetAligned_iff o).2 hm] at ho
    cases ho
  cases i with
  | rd32 o => exact ⟨o, hmod o h, .inl rfl⟩
  | wr32 o d => exact ⟨o, hmod o h, .inr ⟨d, rfl⟩⟩
  | _ => cases h

/-- A read without a value selects a word of a buffer that holds a byte with no mark (R48, R71, R262). -/
theorem State.exists_unmarked_of_readSlot {s : State} {o : Offset} (ha : offsetAligned o = true)
    (h : s.readSlot (slotAt s.bufBytes o) = none) : ∃ k a, 4 * k ≤ a ∧ a < 4 * k + 4 ∧ a < s.bufBytes ∧
      ((o.toNat = 0x1000 + 4 * k ∧ s.inBuf.read a = none) ∨ (o.toNat = 0x2000 + 4 * k ∧ s.outBuf.read a = none)) := by
  cases hs : slotAt s.bufBytes o with
  | inBuf j =>
    rw [hs] at h
    obtain ⟨a, hja, haj, hr⟩ := Memory.readWord_none h
    obtain ⟨hmod, hle⟩ := slotAt_buffer_word s o j ha (.inl hs)
    have ho : o.toNat = 0x1000 + j := toNat_of_slotAt s o (by rw [hs]; rfl)
    exact ⟨j / 4, a, by omega, by omega, by omega, .inl ⟨by omega, hr⟩⟩
  | outBuf j =>
    rw [hs] at h
    obtain ⟨a, hja, haj, hr⟩ := Memory.readWord_none h
    obtain ⟨hmod, hle⟩ := slotAt_buffer_word s o j ha (.inr hs)
    have ho : o.toNat = 0x2000 + j := toNat_of_slotAt s o (by rw [hs]; rfl)
    exact ⟨j / 4, a, by omega, by omega, by omega, .inr ⟨by omega, hr⟩⟩
  | _ => rw [hs] at h; cases h

/-- Settles O21: a newly recorded fault has a cause, and each reason has its own causes only. -/
theorem newFaultsHaveTheirCauses : Obligations.NewFaultsHaveTheirCauses := by
  intro s t h
  have hcause : ∀ f, s.faults.has f = false → t.faults.has f = true → StepCause s f := fun f hs ht =>
    (step_newFault h ht).resolve_left (by simp [hs])
  refine ⟨fun hs ht => ?hazard, fun hs ht => ?busError, fun hs ht => ?uninit⟩
  case hazard =>
    cases hcause .hostHazard hs ht with | host hi hm hc
    cases hc with | access hinstr hc
    cases hc with | busy hwf hb hne
    exact ⟨hb, hm hb, _, _, _, hi, hinstr, hwf, hne⟩
  case busError =>
    cases hcause .hostBusError hs ht with | host hi hm hc
    cases hc with
    | narrow width => exact ⟨_, _, hi, .inl ⟨width, rfl⟩⟩
    | access hinstr hc =>
      cases hc with | unaligned hwf
      obtain ⟨o, ho, rfl | ⟨d, rfl⟩⟩ := unaligned_of_not_wf hwf
      · exact ⟨_, _, hi, .inr ⟨o, ho, .inl hinstr⟩⟩
      · exact ⟨_, _, hi, .inr ⟨o, ho, .inr ⟨d, hinstr⟩⟩⟩
  case uninit =>
    cases hcause .uninitRead hs ht with
    | host hi hm hc =>
      cases hc with | access hinstr hc
      cases hc with | unmarked ha hp hv
      obtain ⟨k, a, hbyte⟩ := State.exists_unmarked_of_readSlot ha hv
      exact .inl ⟨hp, _, _, _, k, a, hi, hinstr, hbyte⟩
    | core hm hlt hr => exact .inr ⟨hm, hlt, Memory.readBlock_none hr⟩

end Sys2Proof.Machine

/-! # Reset and hazards (spec/70_reset_and_hazards.md R340, R341, R350) -/

namespace Sys2Proof.Machine

/-! ## The busy hazard -/

/-- An aligned read of another offset than STATUS by a BUSY core (R260). -/
theorem State.hostRead_of_busy {s : State} {o : Offset} (ha : offsetAligned o = true) (hb : s.phase = .busy)
    (ho : o ≠ 0x004#14) : s.hostRead o = s.hazard := by
  simp [State.hostRead, ha, hb, ho]

/-- An aligned write to a BUSY core (R261). -/
theorem State.hostWrite_of_busy {s : State} {o : Offset} (ha : offsetAligned o = true) (hb : s.phase = .busy)
    (d : Word) : s.hostWrite o d = s.hazard := by
  simp [State.hostWrite, ha, hb]

theorem State.busy_eq_true {s : State} (hb : s.phase = .busy) : s.busy = true := by
  simp [State.busy, hb]

/-- Settles O19: every such access is the hazardous access, a command as the CTRL write of its word; the value of STATUS
has BUSY as bit 0. -/
theorem busyHazard : Obligations.BusyHazard := by
  intro s hb
  have hwrite : ∀ (o : Offset) (d : Word), o.toNat % 4 = 0 → exec (.wr32 o d) s = .next s.hazard := fun o d ho => by
    rw [exec_wr32, State.hostWrite_of_busy ((offsetAligned_iff o).2 ho) hb]
  refine ⟨fun o d ho => ⟨s.hazard, hwrite o d ho, rfl⟩, fun o ho hne => ?read,
    fun i c hi => ⟨s.hazard, ?command, rfl⟩, s.statusWord, ?status,
    s.getLsbD_zero_statusWord.trans (State.busy_eq_true hb)⟩
  case read => rw [exec_rd32, State.hostRead_of_busy ((offsetAligned_iff o).2 ho) hb hne]; rfl
  case command => rw [← instr_of_command hi, exec_instr, hwrite _ _ rfl]
  case status => rw [exec_rd32, State.hostRead_status]

/-! ## Reset -/

theorem blockOfWords_zero : blockOfWords 0#32 0#32 = 0#64 := by decide

/-- The reset state of every capacity has the values of R340. -/
theorem State.resetWith_hasResetValues (b : Fin 512) : (State.resetWith b).HasResetValues :=
  ⟨rfl, rfl, rfl, rfl, rfl, rfl, rfl, rfl, rfl, blockOfWords_zero, blockOfWords_zero, blockOfWords_zero,
    blockOfWords_zero, fun _ => ⟨rfl, rfl⟩, FaultSet.has_empty⟩

/-- Settles O32: State.reset is the reset state of one capacity. -/
theorem resetLeavesTheStatedValues : Obligations.ResetLeavesTheStatedValues :=
  ⟨State.resetWith_hasResetValues _, State.resetWith_hasResetValues⟩

/-- A reset input leaves the values of R340, for the inputs and moves still to come are not among them. -/
theorem State.applyReset_hasResetValues (s : State) : s.applyReset.HasResetValues :=
  State.resetWith_hasResetValues s.bufBlocks

/-- Settles O33: in either phase the input taken is the reset, which does not look at the command it abandons. -/
theorem resetAbandonsTheCommand : Obligations.ResetAbandonsTheCommand := by
  intro s rest hi hmove
  have hreset : ∀ is ts, ∃ t, takeInput .reset (s.awaiting is ts) = .next t ∧ t.HasResetValues ∧
      t.bufBlocks = s.bufBlocks := fun is ts => ⟨_, rfl, State.applyReset_hasResetValues _, rfl⟩
  cases hp : s.phase with
  | idle =>
    rw [step_of_idle_input hi hp]
    exact hreset rest s.turns
  | busy =>
    have ht : s.turns.head? = some .host := hmove.resolve_left (by simp [hp])
    obtain ⟨ts, ht⟩ := List.head?_eq_some_iff.1 ht
    rw [step_of_busy_input hi hp ht]
    exact hreset rest ts

end Sys2Proof.Machine
